-- ==== Sys2Proof/Word.lean ====
section
/-! DEFINITION. The value types of the machine (00_scope.md R7, R8; 10_state.md R10). All values are unsigned. -/

namespace Sys2Proof

/-- An 8-bit value: a V register, a timer, a byte of memory, the immediate `nn`. -/
abbrev Byte := BitVec 8

/-- A 16-bit value: `I`, `PC`, a slot of the call stack. -/
abbrev Word := BitVec 16

/-- A 16-bit instruction word (R60). -/
abbrev Opcode := BitVec 16

/-- A 4-bit field of an opcode (R61). -/
abbrev Nibble := BitVec 4

/-- The 12-bit immediate `nnn` (R61). -/
abbrev Addr12 := BitVec 12

/-- The index of a V register, or of a key: 0 to 15 (R11, R21). -/
abbrev Reg := Fin 16

end Sys2Proof
end

