-- ==== Sys2Proof/Config.lean ====
section
/-! DEFINITION. What is fixed before reset (the OPEN parameters of 00_scope.md R5) and the one free value (RAND of R118). -/

namespace Sys2Proof

/-- What the driver does after a fault of `Step()` (R5 `FAULT_POLICY`, R154). -/
inductive FaultPolicy where
  /-- the driver never calls `Step()` again: the run ends there -/
  | halt
  /-- the driver calls `Step()` again, from the state the fault left -/
  | skip
  deriving DecidableEq, Repr

/-- The five OPEN parameters of R5. "The configuration parameters are fixed before reset and cannot be read or changed by a
program" (R25): a state holds one value of this type, and no operation changes it. -/
structure Config where
  /-- `PROGRAM_ORIGIN`: the value of PC after reset (R30, D2) -/
  programOrigin : Word
  /-- `FONT_BASE`: the type holds R5's constraint `FONT_BASE + 80 <= 0x200` (D3) -/
  fontBase : Fin 433
  /-- `QUIRK_VF_RESET`: whether 8xy1, 8xy2, 8xy3 also write VF <- 0 (R104, D17) -/
  quirkVfReset : Bool
  /-- `QUIRK_MEM_INC_I`: whether Fx55 and Fx65 leave I <- I + x + 1 (R124, R125, D20) -/
  quirkMemIncI : Bool
  /-- `FAULT_POLICY` (R154, D10) -/
  faultPolicy : FaultPolicy
  deriving DecidableEq, Repr

/-- DESIGN CHOICE (log entry 1), safe. The byte that the `k`-th call of `RAND()` supplies (R118: "any value 0..255, supplied
from outside CORE"; "nothing constrains successive draws"). No body: nothing can evaluate it or prove a value of it. -/
opaque Config.rand (k : Nat) : Byte

end Sys2Proof
end

