-- ==== Sys2Proof/Syntax.lean ====
section
/-! DEFINITION. The instructions: one constructor for each of the 34 rows of spec/opcode_table.json (30_encoding.md R63), and the
fields the decoder extracts from every opcode (R61). -/

namespace Sys2Proof

/-- One instruction with its operands. `x` and `y` are register indices, `nn`, `nnn` and `n` the immediates of R61. -/
inductive Instr where
  /-- 00E0 `CLS` (R131) -/
  | cls
  /-- 00EE `RET` (R84) -/
  | ret
  /-- 1nnn `JP nnn` (R81) -/
  | jp (nnn : Addr12)
  /-- 2nnn `CALL nnn` (R82) -/
  | call (nnn : Addr12)
  /-- 3xnn `SE Vx, nn` (R86) -/
  | seImm (x : Reg) (nn : Byte)
  /-- 4xnn `SNE Vx, nn` (R87) -/
  | sneImm (x : Reg) (nn : Byte)
  /-- 5xy0 `SE Vx, Vy` (R88) -/
  | seReg (x y : Reg)
  /-- 6xnn `LD Vx, nn` (R101) -/
  | ldImm (x : Reg) (nn : Byte)
  /-- 7xnn `ADD Vx, nn` (R102) -/
  | addImm (x : Reg) (nn : Byte)
  /-- 8xy0 `LD Vx, Vy` (R103) -/
  | ldReg (x y : Reg)
  /-- 8xy1 `OR Vx, Vy` (R104) -/
  | orReg (x y : Reg)
  /-- 8xy2 `AND Vx, Vy` (R105) -/
  | andReg (x y : Reg)
  /-- 8xy3 `XOR Vx, Vy` (R106) -/
  | xorReg (x y : Reg)
  /-- 8xy4 `ADD Vx, Vy` (R107) -/
  | addReg (x y : Reg)
  /-- 8xy5 `SUB Vx, Vy` (R108) -/
  | subReg (x y : Reg)
  /-- 8xy6 `SHR Vx` (R109); "`y` is encoded but ignored" -/
  | shr (x y : Reg)
  /-- 8xy7 `SUBN Vx, Vy` (R110) -/
  | subn (x y : Reg)
  /-- 8xyE `SHL Vx` (R111); "`y` is encoded but ignored" -/
  | shl (x y : Reg)
  /-- 9xy0 `SNE Vx, Vy` (R89) -/
  | sneReg (x y : Reg)
  /-- Annn `LD I, nnn` (R120) -/
  | ldI (nnn : Addr12)
  /-- Bnnn `JP V0, nnn` (R91) -/
  | jpV0 (nnn : Addr12)
  /-- Cxnn `RND Vx, nn` (R118) -/
  | rnd (x : Reg) (nn : Byte)
  /-- Dxyn `DRW Vx, Vy, n` (R132) -/
  | drw (x y : Reg) (n : Nibble)
  /-- Ex9E `SKP Vx` (R140) -/
  | skp (x : Reg)
  /-- ExA1 `SKNP Vx` (R141) -/
  | sknp (x : Reg)
  /-- Fx07 `LD Vx, DT` (R142) -/
  | ldVxDt (x : Reg)
  /-- Fx0A `LD Vx, K` (R145) -/
  | ldVxK (x : Reg)
  /-- Fx15 `LD DT, Vx` (R143) -/
  | ldDtVx (x : Reg)
  /-- Fx18 `LD ST, Vx` (R144) -/
  | ldStVx (x : Reg)
  /-- Fx1E `ADD I, Vx` (R121) -/
  | addI (x : Reg)
  /-- Fx29 `LD F, Vx` (R122) -/
  | ldF (x : Reg)
  /-- Fx33 `LD B, Vx` (R123) -/
  | ldB (x : Reg)
  /-- Fx55 `LD [I], Vx` (R124) -/
  | storeRegs (x : Reg)
  /-- Fx65 `LD Vx, [I]` (R125) -/
  | loadRegs (x : Reg)
  deriving DecidableEq, Repr

/-- The fields of R61, extracted "from every opcode, whether or not the instruction uses it". -/
structure Fields where
  /-- bits 15:12 -/
  family : Nibble
  /-- bits 11:8 -/
  x : Nibble
  /-- bits 7:4 -/
  y : Nibble
  /-- bits 3:0 -/
  n : Nibble
  /-- bits 7:0 -/
  nn : Byte
  /-- bits 11:0 -/
  nnn : Addr12
  deriving DecidableEq, Repr

end Sys2Proof
end

