-- ==== Sys2Proof/WellFormed.lean ====
section
/-! DEFINITION. Well-formedness. An `Instr` is well formed by its types: its register indices are below 16 and each immediate has
its field's width, so that there is no ill-formed term to refuse. What a term CAN get wrong is checked here: the overlap of an
opcode's fields (30_encoding.md R61) and the parameters a machine is built with (10_state.md R16). -/

namespace Sys2Proof

/-- "The fields overlap: `nn = y ++ n` and `nnn = x ++ y ++ n`" (R61). -/
def Fields.wellFormed (f : Fields) : Bool :=
  f.nn == f.y ++ f.n && f.nnn == f.x ++ f.y ++ f.n

/-- R16's proviso on the parameters, `PROGRAM_ORIGIN <= 0xFFE`: the first fetch is inside memory. -/
def Config.wellFormed (c : Config) : Bool :=
  c.programOrigin ≤ 0xFFE#16

end Sys2Proof
end

