-- ==== Sys2Proof/Decode.lean ====
section
/-! DEFINITION. Decoding and encoding (30_encoding.md R60 to R64), the opcode map as a table of masks, and the operand spelling
of R67. -/

namespace Sys2Proof

/-- Why bytes are no instruction. -/
inductive DecodeError where
  /-- fewer than two bytes are left: no opcode stands there (R60: the length is always 2) -/
  | truncated
  /-- the word matches no row of R63 (R64); it carries "the raw opcode value" -/
  | unknownOpcode (opcode : Opcode)
  deriving DecidableEq, Repr

/-- R61. -/
def Fields.ofWord (w : Opcode) : Fields where
  family := w.extractLsb' 12 4
  x := w.extractLsb' 8 4
  y := w.extractLsb' 4 4
  n := w.extractLsb' 0 4
  nn := w.extractLsb' 0 8
  nnn := w.extractLsb' 0 12

/-- The register a 4-bit field names: "`x` and `y` select `V[x]` and `V[y]` directly" (R61). -/
def regOf (b : Nibble) : Reg :=
  b.toFin

/-- The 4-bit field that names a register. -/
def nibOf (x : Reg) : Nibble :=
  BitVec.ofFin x

/-- Family 8 by its sub-opcode `n` (R63). -/
def decodeFamily8 (w : Opcode) (f : Fields) : Except DecodeError Instr :=
  match f.n.toNat with
  | 0x0 => .ok (.ldReg (regOf f.x) (regOf f.y))
  | 0x1 => .ok (.orReg (regOf f.x) (regOf f.y))
  | 0x2 => .ok (.andReg (regOf f.x) (regOf f.y))
  | 0x3 => .ok (.xorReg (regOf f.x) (regOf f.y))
  | 0x4 => .ok (.addReg (regOf f.x) (regOf f.y))
  | 0x5 => .ok (.subReg (regOf f.x) (regOf f.y))
  | 0x6 => .ok (.shr (regOf f.x) (regOf f.y))
  | 0x7 => .ok (.subn (regOf f.x) (regOf f.y))
  | 0xE => .ok (.shl (regOf f.x) (regOf f.y))
  | _ => .error (.unknownOpcode w)

/-- Family F by its sub-opcode `nn` (R63). -/
def decodeFamilyF (w : Opcode) (f : Fields) : Except DecodeError Instr :=
  match f.nn.toNat with
  | 0x07 => .ok (.ldVxDt (regOf f.x))
  | 0x0A => .ok (.ldVxK (regOf f.x))
  | 0x15 => .ok (.ldDtVx (regOf f.x))
  | 0x18 => .ok (.ldStVx (regOf f.x))
  | 0x1E => .ok (.addI (regOf f.x))
  | 0x29 => .ok (.ldF (regOf f.x))
  | 0x33 => .ok (.ldB (regOf f.x))
  | 0x55 => .ok (.storeRegs (regOf f.x))
  | 0x65 => .ok (.loadRegs (regOf f.x))
  | _ => .error (.unknownOpcode w)

/-- `Decode(opcode)` (R62 to R64): "dispatch on family nibble (and secondary nibble ...)"; strict, so that a word of families 5 and
9 needs `n = 0` (R64, D12). -/
def decode (w : Opcode) : Except DecodeError Instr :=
  let f := Fields.ofWord w
  match f.family.toNat with
  | 0x0 =>
    if w = 0x00E0#16 then .ok .cls
    else if w = 0x00EE#16 then .ok .ret
    else .error (.unknownOpcode w)
  | 0x1 => .ok (.jp f.nnn)
  | 0x2 => .ok (.call f.nnn)
  | 0x3 => .ok (.seImm (regOf f.x) f.nn)
  | 0x4 => .ok (.sneImm (regOf f.x) f.nn)
  | 0x5 => if f.n = 0#4 then .ok (.seReg (regOf f.x) (regOf f.y)) else .error (.unknownOpcode w)
  | 0x6 => .ok (.ldImm (regOf f.x) f.nn)
  | 0x7 => .ok (.addImm (regOf f.x) f.nn)
  | 0x8 => decodeFamily8 w f
  | 0x9 => if f.n = 0#4 then .ok (.sneReg (regOf f.x) (regOf f.y)) else .error (.unknownOpcode w)
  | 0xA => .ok (.ldI f.nnn)
  | 0xB => .ok (.jpV0 f.nnn)
  | 0xC => .ok (.rnd (regOf f.x) f.nn)
  | 0xD => .ok (.drw (regOf f.x) (regOf f.y) f.n)
  | 0xE =>
    if f.nn = 0x9E#8 then .ok (.skp (regOf f.x))
    else if f.nn = 0xA1#8 then .ok (.sknp (regOf f.x))
    else .error (.unknownOpcode w)
  | 0xF => decodeFamilyF w f
  | _ => .error (.unknownOpcode w)

/-- "big-endian combine into a 16-bit opcode": the byte at the lower address is the high byte (R43, R45). -/
def opcodeOf (hi lo : Byte) : Opcode :=
  hi ++ lo

/-- The decoder over a stream of bytes: the instruction and what follows it. -/
def decodeBytes : List Byte → Except DecodeError (Instr × List Byte)
  | hi :: lo :: rest =>
    match decode (opcodeOf hi lo) with
    | .ok i => .ok (i, rest)
    | .error e => .error e
  | _ => .error .truncated

/-- The word of an instruction, from the `encoding` strings of the opcode map (R60, R63). -/
def encode : Instr → Opcode
  | .cls => 0x00E0#16
  | .ret => 0x00EE#16
  | .jp nnn => 0x1#4 ++ nnn
  | .call nnn => 0x2#4 ++ nnn
  | .seImm x nn => 0x3#4 ++ nibOf x ++ nn
  | .sneImm x nn => 0x4#4 ++ nibOf x ++ nn
  | .seReg x y => 0x5#4 ++ nibOf x ++ nibOf y ++ 0x0#4
  | .ldImm x nn => 0x6#4 ++ nibOf x ++ nn
  | .addImm x nn => 0x7#4 ++ nibOf x ++ nn
  | .ldReg x y => 0x8#4 ++ nibOf x ++ nibOf y ++ 0x0#4
  | .orReg x y => 0x8#4 ++ nibOf x ++ nibOf y ++ 0x1#4
  | .andReg x y => 0x8#4 ++ nibOf x ++ nibOf y ++ 0x2#4
  | .xorReg x y => 0x8#4 ++ nibOf x ++ nibOf y ++ 0x3#4
  | .addReg x y => 0x8#4 ++ nibOf x ++ nibOf y ++ 0x4#4
  | .subReg x y => 0x8#4 ++ nibOf x ++ nibOf y ++ 0x5#4
  | .shr x y => 0x8#4 ++ nibOf x ++ nibOf y ++ 0x6#4
  | .subn x y => 0x8#4 ++ nibOf x ++ nibOf y ++ 0x7#4
  | .shl x y => 0x8#4 ++ nibOf x ++ nibOf y ++ 0xE#4
  | .sneReg x y => 0x9#4 ++ nibOf x ++ nibOf y ++ 0x0#4
  | .ldI nnn => 0xA#4 ++ nnn
  | .jpV0 nnn => 0xB#4 ++ nnn
  | .rnd x nn => 0xC#4 ++ nibOf x ++ nn
  | .drw x y n => 0xD#4 ++ nibOf x ++ nibOf y ++ n
  | .skp x => 0xE#4 ++ nibOf x ++ 0x9E#8
  | .sknp x => 0xE#4 ++ nibOf x ++ 0xA1#8
  | .ldVxDt x => 0xF#4 ++ nibOf x ++ 0x07#8
  | .ldVxK x => 0xF#4 ++ nibOf x ++ 0x0A#8
  | .ldDtVx x => 0xF#4 ++ nibOf x ++ 0x15#8
  | .ldStVx x => 0xF#4 ++ nibOf x ++ 0x18#8
  | .addI x => 0xF#4 ++ nibOf x ++ 0x1E#8
  | .ldF x => 0xF#4 ++ nibOf x ++ 0x29#8
  | .ldB x => 0xF#4 ++ nibOf x ++ 0x33#8
  | .storeRegs x => 0xF#4 ++ nibOf x ++ 0x55#8
  | .loadRegs x => 0xF#4 ++ nibOf x ++ 0x65#8

/-- An opcode as the two bytes that memory holds, high byte at the lower address (R43, R60). -/
def bytesOf (w : Opcode) : List Byte :=
  [w.extractLsb' 8 8, w.extractLsb' 0 8]

/-- The instruction's bytes in memory order. -/
def encodeBytes (i : Instr) : List Byte :=
  bytesOf (encode i)

/-- One row of the opcode map: an opcode `w` matches it when `w & mask = value` (R63). -/
structure OpcodeRow where
  mnemonic : String
  mask : Opcode
  value : Opcode
  deriving DecidableEq, Repr

/-- R63: "Decode is a match of `opcode & mask` against `match`". -/
def OpcodeRow.matches (r : OpcodeRow) (w : Opcode) : Bool :=
  w &&& r.mask == r.value

/-- The 34 rows of R63, families 0 to 7, with the mnemonics of spec/opcode_table.json. -/
def opcodeTableLow : List OpcodeRow :=
  [⟨"CLS", 0xFFFF, 0x00E0⟩, ⟨"RET", 0xFFFF, 0x00EE⟩, ⟨"JP_nnn", 0xF000, 0x1000⟩, ⟨"CALL_nnn", 0xF000, 0x2000⟩,
   ⟨"SE_Vx__nn", 0xF000, 0x3000⟩, ⟨"SNE_Vx__nn", 0xF000, 0x4000⟩, ⟨"SE_Vx__Vy", 0xF00F, 0x5000⟩,
   ⟨"LD_Vx__nn", 0xF000, 0x6000⟩, ⟨"ADD_Vx__nn", 0xF000, 0x7000⟩]

/-- Families 8 to D. -/
def opcodeTableMid : List OpcodeRow :=
  [⟨"LD_Vx__Vy", 0xF00F, 0x8000⟩, ⟨"OR_Vx__Vy", 0xF00F, 0x8001⟩, ⟨"AND_Vx__Vy", 0xF00F, 0x8002⟩,
   ⟨"XOR_Vx__Vy", 0xF00F, 0x8003⟩, ⟨"ADD_Vx__Vy", 0xF00F, 0x8004⟩, ⟨"SUB_Vx__Vy", 0xF00F, 0x8005⟩,
   ⟨"SHR_Vx", 0xF00F, 0x8006⟩, ⟨"SUBN_Vx__Vy", 0xF00F, 0x8007⟩, ⟨"SHL_Vx", 0xF00F, 0x800E⟩,
   ⟨"SNE_Vx__Vy", 0xF00F, 0x9000⟩, ⟨"LD_I__nnn", 0xF000, 0xA000⟩, ⟨"JP_V0__nnn", 0xF000, 0xB000⟩,
   ⟨"RND_Vx__nn", 0xF000, 0xC000⟩, ⟨"DRW_Vx__Vy__n", 0xF000, 0xD000⟩]

/-- Families E and F. -/
def opcodeTableHigh : List OpcodeRow :=
  [⟨"SKP_Vx", 0xF0FF, 0xE09E⟩, ⟨"SKNP_Vx", 0xF0FF, 0xE0A1⟩, ⟨"LD_Vx__DT", 0xF0FF, 0xF007⟩,
   ⟨"LD_Vx__K", 0xF0FF, 0xF00A⟩, ⟨"LD_DT__Vx", 0xF0FF, 0xF015⟩, ⟨"LD_ST__Vx", 0xF0FF, 0xF018⟩,
   ⟨"ADD_I__Vx", 0xF0FF, 0xF01E⟩, ⟨"LD_F__Vx", 0xF0FF, 0xF029⟩, ⟨"LD_B__Vx", 0xF0FF, 0xF033⟩,
   ⟨"LD__I___Vx", 0xF0FF, 0xF055⟩, ⟨"LD_Vx___I", 0xF0FF, 0xF065⟩]

/-- The whole opcode map (R63). -/
def opcodeTable : List OpcodeRow :=
  opcodeTableLow ++ opcodeTableMid ++ opcodeTableHigh

/-- The row of R63 an instruction belongs to, by its mnemonic. -/
def Instr.mnemonic : Instr → String
  | .cls => "CLS"
  | .ret => "RET"
  | .jp _ => "JP_nnn"
  | .call _ => "CALL_nnn"
  | .seImm _ _ => "SE_Vx__nn"
  | .sneImm _ _ => "SNE_Vx__nn"
  | .seReg _ _ => "SE_Vx__Vy"
  | .ldImm _ _ => "LD_Vx__nn"
  | .addImm _ _ => "ADD_Vx__nn"
  | .ldReg _ _ => "LD_Vx__Vy"
  | .orReg _ _ => "OR_Vx__Vy"
  | .andReg _ _ => "AND_Vx__Vy"
  | .xorReg _ _ => "XOR_Vx__Vy"
  | .addReg _ _ => "ADD_Vx__Vy"
  | .subReg _ _ => "SUB_Vx__Vy"
  | .shr _ _ => "SHR_Vx"
  | .subn _ _ => "SUBN_Vx__Vy"
  | .shl _ _ => "SHL_Vx"
  | .sneReg _ _ => "SNE_Vx__Vy"
  | .ldI _ => "LD_I__nnn"
  | .jpV0 _ => "JP_V0__nnn"
  | .rnd _ _ => "RND_Vx__nn"
  | .drw _ _ _ => "DRW_Vx__Vy__n"
  | .skp _ => "SKP_Vx"
  | .sknp _ => "SKNP_Vx"
  | .ldVxDt _ => "LD_Vx__DT"
  | .ldVxK _ => "LD_Vx__K"
  | .ldDtVx _ => "LD_DT__Vx"
  | .ldStVx _ => "LD_ST__Vx"
  | .addI _ => "ADD_I__Vx"
  | .ldF _ => "LD_F__Vx"
  | .ldB _ => "LD_B__Vx"
  | .storeRegs _ => "LD__I___Vx"
  | .loadRegs _ => "LD_Vx___I"

/-- The lowest `k` nibbles of a number as hexadecimal digits, most significant first. -/
def hexDigits : Nat → Nat → String
  | 0, _ => ""
  | k + 1, v => hexDigits k (v / 16) ++ String.singleton (("0123456789ABCDEF".toList).getD (v % 16) '0')

/-- A register in assembler text: "`V` followed by one hexadecimal digit" (R67). -/
def asmReg (x : Reg) : String :=
  "V" ++ hexDigits 1 x.val

/-- An immediate in assembler text: "a hexadecimal number" (R67), of `k` digits. -/
def asmHex (k v : Nat) : String :=
  "0x" ++ hexDigits k v

/-- A mnemonic followed by its operands, destination first (R67). -/
def asmLine (name : String) (operands : List String) : String :=
  name ++ " " ++ ", ".intercalate operands

/-- The assembler text of an instruction (R63, R67). DOC0 defines no assembler: the text "carries no semantics of its own". -/
def Instr.asm : Instr → String
  | .cls => "CLS"
  | .ret => "RET"
  | .jp nnn => asmLine "JP" [asmHex 3 nnn.toNat]
  | .call nnn => asmLine "CALL" [asmHex 3 nnn.toNat]
  | .seImm x nn => asmLine "SE" [asmReg x, asmHex 2 nn.toNat]
  | .sneImm x nn => asmLine "SNE" [asmReg x, asmHex 2 nn.toNat]
  | .seReg x y => asmLine "SE" [asmReg x, asmReg y]
  | .ldImm x nn => asmLine "LD" [asmReg x, asmHex 2 nn.toNat]
  | .addImm x nn => asmLine "ADD" [asmReg x, asmHex 2 nn.toNat]
  | .ldReg x y => asmLine "LD" [asmReg x, asmReg y]
  | .orReg x y => asmLine "OR" [asmReg x, asmReg y]
  | .andReg x y => asmLine "AND" [asmReg x, asmReg y]
  | .xorReg x y => asmLine "XOR" [asmReg x, asmReg y]
  | .addReg x y => asmLine "ADD" [asmReg x, asmReg y]
  | .subReg x y => asmLine "SUB" [asmReg x, asmReg y]
  | .shr x _ => asmLine "SHR" [asmReg x]
  | .subn x y => asmLine "SUBN" [asmReg x, asmReg y]
  | .shl x _ => asmLine "SHL" [asmReg x]
  | .sneReg x y => asmLine "SNE" [asmReg x, asmReg y]
  | .ldI nnn => asmLine "LD" ["I", asmHex 3 nnn.toNat]
  | .jpV0 nnn => asmLine "JP" ["V0", asmHex 3 nnn.toNat]
  | .rnd x nn => asmLine "RND" [asmReg x, asmHex 2 nn.toNat]
  | .drw x y n => asmLine "DRW" [asmReg x, asmReg y, asmHex 1 n.toNat]
  | .skp x => asmLine "SKP" [asmReg x]
  | .sknp x => asmLine "SKNP" [asmReg x]
  | .ldVxDt x => asmLine "LD" [asmReg x, "DT"]
  | .ldVxK x => asmLine "LD" [asmReg x, "K"]
  | .ldDtVx x => asmLine "LD" ["DT", asmReg x]
  | .ldStVx x => asmLine "LD" ["ST", asmReg x]
  | .addI x => asmLine "ADD" ["I", asmReg x]
  | .ldF x => asmLine "LD" ["F", asmReg x]
  | .ldB x => asmLine "LD" ["B", asmReg x]
  | .storeRegs x => asmLine "LD" ["[I]", asmReg x]
  | .loadRegs x => asmLine "LD" [asmReg x, "[I]"]

/-- A data byte of a listing: "written `DB 0xNN`" (R67). -/
def asmByte (b : Byte) : String :=
  asmLine "DB" [asmHex 2 b.toNat]

/-- The opcode whose low `nbits` bits are `w`, numbered as spec/opcode_table.json numbers them; every bit above is 0. -/
def tableWord (nbits w : Nat) : Opcode :=
  BitVec.ofNat 16 (w % 2 ^ nbits)

/-- What the decoder reads from the bytes of a row of the opcode table, laid out as memory holds them. -/
def decodeTableWord (nbits w : Nat) : Option Instr :=
  match decodeBytes (bytesOf (tableWord nbits w)) with
  | .ok (i, _) => some i
  | .error _ => none

end Sys2Proof
end

