-- ==== Sys2Proof/Machine/Defaults.lean ====
section
/-! DEFINITION. The default values of the OPEN parameters (00_scope.md R5). -/

namespace Sys2Proof.Machine

/-- R5's defaults: `PROGRAM_ORIGIN` 0x200, `FONT_BASE` 0x050, both quirks false, `FAULT_POLICY` halt. They are the spec's
"recommended value"s; a statement over all states covers every other value (log entry 3). -/
def defaultConfig : Config where
  programOrigin := 0x200#16
  fontBase := 0x050
  quirkVfReset := false
  quirkMemIncI := false
  faultPolicy := .halt

end Sys2Proof.Machine
end

