-- ==== Sys2Proof/Machine/State.lean ====
section
/-! DEFINITION. The state of CORE (10_state.md R10 to R30) as plain data, the reasons an operation can stop, and the state after
reset. -/

namespace Sys2Proof.Machine

/-- Memory: the bytes that differ from the content after reset, by strictly rising address (10_state.md R23, R30). What an
address that is not listed holds is `resetByte` of Machine/Memory.lean. -/
abbrev Memory := List Host.Cell

/-- The display buffer `D[y][x]`: 32 rows, top first, of 64 pixels, leftmost first; true is set (R20). -/
abbrev Display := Vector (Vector Bool 64) 32

/-- "The architectural state of CORE is exactly the following and nothing else" (R10), and, after it, two fields of the model
that hold what the spec passes to a step as an argument. -/
structure State where
  /-- `V[0..15]`, V0 to VF (R11, R12) -/
  v : Vector Byte 16
  /-- `I` (R13) -/
  idx : Word
  /-- `PC` (R14 to R16) -/
  pc : Word
  /-- `SP`: the number of live entries of the call stack (R17) -/
  sp : Byte
  /-- `Stack[0..15]` (R18) -/
  stack : Vector Word 16
  /-- `DT`, the delay timer (R19) -/
  dt : Byte
  /-- `ST`, the sound timer (R19) -/
  st : Byte
  /-- `Mem[0..4095]` (R23) -/
  mem : Memory
  /-- `D[0..31][0..63]` (R20) -/
  display : Display
  /-- `Key[0..15]`, true when pressed (R21) -/
  key : Vector Bool 16
  /-- `waiting`, the awaiting-key flag (R22) -/
  waiting : Bool
  /-- `wait_x`, the register a key wait will write (R22) -/
  waitX : Reg
  /-- The model's own (log entry 3): the OPEN parameters of R5, which no operation changes (R25) -/
  cfg : Config
  /-- The model's own (log entry 2): how many bytes `RAND()` has supplied so far (R118) -/
  draws : Nat
  deriving DecidableEq, Repr

/-- The five fault kinds of 60_exceptions.md R150 with the value each carries, and (log entry 4) `after`, the state the fault leaves
(R152). Each is safe: it is the return value the spec itself gives the operation. -/
inductive Fault where
  /-- Raised by the fetch when PC > 4094 and by Dxyn, Fx33, Fx55, Fx65 when an address above 4095 would be accessed; `addr` is the
  lowest offending address (R150, D35). Safe: R41 to R44 state it. -/
  | memoryFault (addr : Nat) (after : State)
  /-- Raised by decode for a word of no row of R63, with "the raw opcode value" (R64). Safe. -/
  | unknownOpcode (opcode : Opcode) (after : State)
  /-- Raised by 2nnn CALL when SP = 16 before the push (R82). Safe. -/
  | stackOverflow (after : State)
  /-- Raised by 00EE RET when SP = 0 before the pop (R84). Safe. -/
  | stackUnderflow (after : State)
  /-- Raised by `LoadProgram` when `origin + length > 4096` (R50, R172), never by a step. Safe. -/
  | outOfSpace (after : State)
  deriving DecidableEq, Repr

/-- Why the model gives an operation no meaning. -/
inductive Refusal where
  /-- An instruction without a meaning yet; `mnemonic` is its row's in spec/opcode_table.json. Raised by no arm of `exec` now. Safe. -/
  | notModelled (mnemonic : String)
  /-- Raised by RET and CALL when the slot they name does not exist, which takes SP above 16: "unreachable" (R17; log entry 17).
  Safe: no run meets it. -/
  | noStackSlot (sp : Byte)
  /-- Raised by `SetKey` with an index above 15: "outside the contract ... and is refused" (R165, D31). Safe. -/
  | keyOutsideContract (index : Nat)
  deriving DecidableEq, Repr

/-- What an operation answers: the next state, a fault, or a refusal. -/
abbrev Result := Host.Outcome State Fault Refusal

/-- The state a fault leaves (R152). -/
def Fault.after : Fault → State
  | .memoryFault _ t => t
  | .unknownOpcode _ t => t
  | .stackOverflow t => t
  | .stackUnderflow t => t
  | .outOfSpace t => t

/-- R30 for a choice `c` of the parameters: every piece of state right after `Reset()`. -/
def State.resetWith (c : Config) : State where
  v := Vector.replicate 16 0x00#8
  idx := 0x0000#16
  pc := c.programOrigin
  sp := 0x00#8
  stack := Vector.replicate 16 0x0000#16
  dt := 0x00#8
  st := 0x00#8
  mem := []
  display := Vector.replicate 32 (Vector.replicate 64 false)
  key := Vector.replicate 16 false
  waiting := false
  waitX := 0
  cfg := c
  draws := 0

/-- The machine right after reset, with the parameters at R5's defaults. No program is loaded (R30, R182). -/
def State.reset : State :=
  State.resetWith defaultConfig

end Sys2Proof.Machine
end

