-- ==== Sys2Proof/Machine/Memory.lean ====
section
/-! DEFINITION. The font (10_state.md R24), the content of memory after reset (R30), and the operations on the list of bytes. -/

namespace Sys2Proof.Machine

/-- The sixteen glyphs of R24, five bytes each, top row first: digits 0 to 7. -/
def glyphsLow : List Byte :=
  [0xF0, 0x90, 0x90, 0x90, 0xF0,
   0x20, 0x60, 0x20, 0x20, 0x70,
   0xF0, 0x10, 0xF0, 0x80, 0xF0,
   0xF0, 0x10, 0xF0, 0x10, 0xF0,
   0x90, 0x90, 0xF0, 0x10, 0x10,
   0xF0, 0x80, 0xF0, 0x10, 0xF0,
   0xF0, 0x80, 0xF0, 0x90, 0xF0,
   0xF0, 0x10, 0x20, 0x40, 0x40]

/-- Digits 8 to F. -/
def glyphsHigh : List Byte :=
  [0xF0, 0x90, 0xF0, 0x90, 0xF0,
   0xF0, 0x90, 0xF0, 0x10, 0xF0,
   0xF0, 0x90, 0xF0, 0x90, 0x90,
   0xE0, 0x90, 0xE0, 0x90, 0xE0,
   0xF0, 0x80, 0x80, 0x80, 0xF0,
   0xE0, 0x90, 0x90, 0x90, 0xE0,
   0xF0, 0x80, 0xF0, 0x80, 0xF0,
   0xF0, 0x80, 0xF0, 0x80, 0x80]

/-- `FONT_DATA`: the 80 font bytes (R5, R24, D4). -/
def font : List Byte :=
  glyphsLow ++ glyphsHigh

/-- The content of address `a` after reset, for a `FONT_BASE` of `base`: the font, and 0x00 elsewhere (R30). It is what an address
that memory does not list holds. -/
def resetByte (base a : Nat) : Byte :=
  if base ≤ a ∧ a < base + 80 then font.getD (a - base) 0x00#8 else 0x00#8

/-- The byte the list gives an address, if it lists it. -/
def Memory.lookup : Memory → Nat → Option Byte
  | [], _ => none
  | (k, b) :: m, a => if k = a then some b else Memory.lookup m a

/-- The list with address `a` holding `b`, in its place in the order. -/
def Memory.insert : Memory → Nat → Byte → Memory
  | [], a, b => [(a, b)]
  | (k, c) :: m, a, b =>
    if a < k then (a, b) :: (k, c) :: m
    else if a = k then (a, b) :: m
    else (k, c) :: Memory.insert m a b

/-- The list without address `a`. -/
def Memory.erase (m : Memory) (a : Nat) : Memory :=
  m.filter fun c => c.1 != a

/-- The byte at `a`. -/
def Memory.read (base : Nat) (m : Memory) (a : Nat) : Byte :=
  (m.lookup a).getD (resetByte base a)

/-- Memory after one byte is written; writing what an unlisted address holds removes the entry, so that the form stays canonical. -/
def Memory.write (base : Nat) (m : Memory) (a : Nat) (b : Byte) : Memory :=
  if b = resetByte base a then m.erase a else m.insert a b

/-- Each address is at least `lo`, below 4096 and above the one before it; no byte is the one an unlisted address holds. -/
def Memory.wfFrom (base lo : Nat) : Memory → Bool
  | [] => true
  | (k, b) :: m => decide (lo ≤ k) && decide (k < 4096) && (b != resetByte base k) && Memory.wfFrom base (k + 1) m

/-- The canonical form of memory for a `FONT_BASE` of `base`: equal memories are equal lists. -/
def Memory.wf (base : Nat) (m : Memory) : Bool :=
  Memory.wfFrom base 0 m

end Sys2Proof.Machine
end

