-- ==== Sys2Proof/Machine/Ops.lean ====
section
/-! DEFINITION. The named operations over the state: the primitives of 00_scope.md R8, raising a fault (60_exceptions.md R150, R152)
and what the driver makes of one (R154). -/

namespace Sys2Proof.Machine

/-- VF, that is `V[15]`, the one status flag (R12). -/
def VF : Reg := 15

/-- The sixteen register indices, or key indices, in rising order. -/
def allRegs : List Reg :=
  [0, 1, 2, 3, 4, 5, 6, 7, 8, 9, 10, 11, 12, 13, 14, 15]

/-! ### Registers (R8, R11 to R19) -/

/-- `V[i]` (R8). -/
def State.reg (s : State) (i : Reg) : Byte :=
  s.v[i.val]

/-- `V[i] <- b` (R8). -/
def State.setReg (s : State) (i : Reg) (b : Byte) : State :=
  { s with v := s.v.set i.val b }

/-- `I <- w` (R13). -/
def State.setIdx (s : State) (w : Word) : State :=
  { s with idx := w }

/-- `PC <- w` (R8: "taken modulo 2^16"). -/
def State.setPc (s : State) (w : Word) : State :=
  { s with pc := w }

/-- PC moved past the opcode, by the fetch and again by a taken skip: `PC <- (PC + 2) mod 2^16` (R8, R43). -/
def State.advance (s : State) : State :=
  s.setPc (s.pc + 2#16)

/-- `if c: PC <- PC + 2` on the already-advanced PC (R80). -/
def State.skipIf (s : State) (c : Bool) : State :=
  if c then s.advance else s

/-- `DT <- b` (R19). -/
def State.setDt (s : State) (b : Byte) : State :=
  { s with dt := b }

/-- `ST <- b` (R19). -/
def State.setSt (s : State) (b : Byte) : State :=
  { s with st := b }

/-- Entering the key wait: `waiting <- 1`, `wait_x <- x` (R145). -/
def State.startWait (s : State) (x : Reg) : State :=
  { s with waiting := true, waitX := x }

/-- Leaving the key wait: `waiting <- 0` (R146). -/
def State.endWait (s : State) : State :=
  { s with waiting := false }

/-- One byte taken from `RAND()` (R118): the next draw is another. -/
def State.takeDraw (s : State) : State :=
  { s with draws := s.draws + 1 }

/-! ### Memory (20_memory.md R40 to R46) -/

/-- The byte at an address. An instruction reads it only at an address it has found to be at most 4095 (R41, R44). -/
def State.byteAt (s : State) (a : Nat) : Byte :=
  Memory.read s.cfg.fontBase.val s.mem a

/-- Memory with one byte written, at an address found to be at most 4095 (R42, R44). -/
def State.setByte (s : State) (a : Nat) (b : Byte) : State :=
  { s with mem := Memory.write s.cfg.fontBase.val s.mem a b }

/-- `MemRead(addr, 1)`: the byte, or the address of the `MemoryFault` (R41). -/
def memRead (s : State) (a : Nat) : Except Nat Byte :=
  if a ≤ 4095 then .ok (s.byteAt a) else .error a

/-- `MemWrite(addr, 1, b)`: the state with the byte written, or the address of the `MemoryFault` (R42). -/
def memWrite (s : State) (a : Nat) (b : Byte) : Except Nat State :=
  if a ≤ 4095 then .ok (s.setByte a b) else .error a

/-- Bytes written in ascending address order from `a` (R46, R50). -/
def State.setBytes (s : State) (a : Nat) : List Byte → State
  | [] => s
  | b :: bs => (s.setByte a b).setBytes (a + 1) bs

/-- R44: the range `lo .. lo + n - 1` is checked before anything changes. The address of the `MemoryFault`, the lowest of the range
above 4095, or none. A range of no byte faults nowhere (R132). -/
def rangeFault (lo n : Nat) : Option Nat :=
  if 1 ≤ n ∧ 4095 < lo + n - 1 then some (max lo 4096) else none

/-! ### Call stack (R17, R18) -/

/-- `Stack[i]` (R8, R18). -/
def State.slot (s : State) (i : Fin 16) : Word :=
  s.stack[i.val]

/-- `Stack[i] <- w; SP <- n`. -/
def State.setStack (s : State) (i : Fin 16) (w : Word) (n : Byte) : State :=
  { s with stack := s.stack.set i.val w, sp := n }

/-- `SP <- n`; the slots keep their bits (R84). -/
def State.setSp (s : State) (n : Byte) : State :=
  { s with sp := n }

/-! ### Display (R20, R130 to R132) -/

/-- `D[y][x]`. -/
def Display.pixel (d : Display) (y : Fin 32) (x : Fin 64) : Bool :=
  (d[y.val])[x.val]

/-- `D[y][x] <- b`. -/
def Display.setPixel (d : Display) (y : Fin 32) (x : Fin 64) (b : Bool) : Display :=
  d.set y.val ((d[y.val]).set x.val b)

/-- Every pixel unset (R131). -/
def Display.clear : Display :=
  Vector.replicate 32 (Vector.replicate 64 false)

/-- A display being drawn on and the collision so far. -/
structure Canvas where
  display : Display
  collided : Bool
  deriving DecidableEq, Repr

/-- One set bit of a sprite meets pixel `(x, y)`: the pixel is toggled, and it collides when it was set (R132). -/
def Canvas.plot (c : Canvas) (y : Fin 32) (x : Fin 64) : Canvas where
  display := c.display.setPixel y x (!c.display.pixel y x)
  collided := c.collided || c.display.pixel y x

/-- `px <- (x0 + c) mod 64`: "columns past the right edge wrap to the left" (R132). -/
def column (x0 c : Nat) : Fin 64 :=
  Fin.ofNat 64 (x0 + c)

/-- `py <- (y0 + r) mod 32`: "rows past the bottom wrap to the top" (R132, D18). -/
def row (y0 r : Nat) : Fin 32 :=
  Fin.ofNat 32 (y0 + r)

/-- Bit `7 - c` of a sprite byte: "bit 7 of the byte is the leftmost pixel" (R132). -/
def spriteBit (b : Byte) (c : Nat) : Bool :=
  b.getLsbD (7 - c)

/-- One sprite row, column 0 first (R132). -/
def Canvas.drawRow (k : Canvas) (b : Byte) (x0 : Nat) (y : Fin 32) : Canvas :=
  (List.range 8).foldl (fun k c => if spriteBit b c then k.plot y (column x0 c) else k) k

/-- The sprite's rows, top row first, from row `r` on (R132). -/
def Canvas.drawRows (k : Canvas) (x0 y0 : Nat) : Nat → List Byte → Canvas
  | _, [] => k
  | r, b :: bs => (k.drawRow b x0 (row y0 r)).drawRows x0 y0 (r + 1) bs

/-- `draw_sprite(x, y, bytes) -> collided` (R130, R132). -/
def Display.drawSprite (d : Display) (x0 y0 : Nat) (bytes : List Byte) : Canvas :=
  Canvas.drawRows ⟨d, false⟩ x0 y0 0 bytes

/-- `D <- d`. -/
def State.setDisplay (s : State) (d : Display) : State :=
  { s with display := d }

/-! ### Keypad (R21, R166) -/

/-- `Key[k]`, that is `is_pressed(k)` (R166). -/
def State.pressed (s : State) (k : Reg) : Bool :=
  s.key[k.val]

/-- `Key[k] <- b` (R165). -/
def State.setKeyFlag (s : State) (k : Reg) (b : Bool) : State :=
  { s with key := s.key.set k.val b }

/-- `AnyPressed()`: none, or the lowest pressed key (R166, D25). -/
def anyPressed (s : State) : Option Reg :=
  allRegs.find? s.pressed

/-- A key index as the 8-bit value a register receives: "0..15, zero-extended to 8 bits" (R145). -/
def keyByte (k : Reg) : Byte :=
  BitVec.ofNat 8 k.val

/-! ### Faults (R150, R152, R154) -/

/-- `raise <Fault>`: the operation ends with the fault; nothing is saved, nothing is vectored. `s` is the state it leaves, which R152
fixes: for a fetch fault the state before the fetch, for every other fault of a step the state whose PC the fetch has advanced. -/
def raise (f : State → Fault) (s : State) : Result :=
  .fault (f s)

/-- `raise MemoryFault(a)`. -/
def raiseMemoryFault (a : Nat) (s : State) : Result :=
  raise (.memoryFault a) s

/-- What the driver makes of the answer of `Step()` (R154): under `halt` a fault ends the run, under `skip` the driver goes on
"from the state of rule R152". -/
def deliver : Result → Result
  | .fault f =>
    match f.after.cfg.faultPolicy with
    | .halt => .fault f
    | .skip => .next f.after
  | r => r

end Sys2Proof.Machine
end

