-- ==== Sys2Proof/Machine/Flags.lean ====
section
/-! DEFINITION. Every flag computation: the values VF takes (10_state.md R12), from the operands the registers held before the
instruction (41_load_arith.md R100). -/

namespace Sys2Proof.Machine

/-- A flag as VF holds it. -/
def flagByte (c : Bool) : Byte :=
  if c then 0x01#8 else 0x00#8

/-- 8xy4: "1 when the 9-bit sum exceeds 255" (R107). -/
def carryOut (a b : Byte) : Bool :=
  255 < a.toNat + b.toNat

/-- 8xy5 and 8xy7: 1 when `a - b` needs no borrow, that is `a >= b` (R108, R110, D15). -/
def noBorrow (a b : Byte) : Bool :=
  b.toNat ≤ a.toNat

/-- 8xy6: the bit shifted out on the right (R109). -/
def bit0 (a : Byte) : Bool :=
  a.getLsbD 0

/-- 8xyE: the bit shifted out on the left (R111). -/
def bit7 (a : Byte) : Bool :=
  a.getLsbD 7

/-- "`V[x] <- result`; `V[15] <- flag`" (R100): VF is written last, so that with `x = 15` the flag survives (R12, D14). -/
def State.setWithFlag (s : State) (x : Reg) (result : Byte) (flag : Bool) : State :=
  (s.setReg x result).setReg VF (flagByte flag)

/-- 8xy1, 8xy2, 8xy3: the result, then "if QUIRK_VF_RESET: V[15] <- 0" (R104). -/
def State.setLogic (s : State) (x : Reg) (result : Byte) : State :=
  if s.cfg.quirkVfReset then (s.setReg x result).setReg VF 0x00#8 else s.setReg x result

end Sys2Proof.Machine
end

