-- ==== Sys2Proof/Machine/Arith.lean ====
section
/-! DEFINITION. Register load, arithmetic, logic, shift and random (41_load_arith.md). -/

namespace Sys2Proof.Machine

/-- 6xnn (R101): `V[x] <- nn`. -/
def execLdImm (x : Reg) (nn : Byte) (s : State) : Result :=
  .next (s.setReg x nn)

/-- 7xnn (R102): `V[x] <- (V[x] + nn) mod 256`, no flag. -/
def execAddImm (x : Reg) (nn : Byte) (s : State) : Result :=
  .next (s.setReg x (s.reg x + nn))

/-- 8xy0 (R103): `V[x] <- V[y]`. -/
def execLdReg (x y : Reg) (s : State) : Result :=
  .next (s.setReg x (s.reg y))

/-- 8xy1 (R104). -/
def execOrReg (x y : Reg) (s : State) : Result :=
  .next (s.setLogic x (s.reg x ||| s.reg y))

/-- 8xy2 (R105). -/
def execAndReg (x y : Reg) (s : State) : Result :=
  .next (s.setLogic x (s.reg x &&& s.reg y))

/-- 8xy3 (R106). -/
def execXorReg (x y : Reg) (s : State) : Result :=
  .next (s.setLogic x (s.reg x ^^^ s.reg y))

/-- 8xy4 (R107). -/
def execAddReg (x y : Reg) (s : State) : Result :=
  .next (s.setWithFlag x (s.reg x + s.reg y) (carryOut (s.reg x) (s.reg y)))

/-- 8xy5 (R108). -/
def execSubReg (x y : Reg) (s : State) : Result :=
  .next (s.setWithFlag x (s.reg x - s.reg y) (noBorrow (s.reg x) (s.reg y)))

/-- 8xy6 (R109); "the operand is `V[x]`, not `V[y]`" (D16). -/
def execShr (x _y : Reg) (s : State) : Result :=
  .next (s.setWithFlag x (s.reg x >>> 1) (bit0 (s.reg x)))

/-- 8xy7 (R110). -/
def execSubn (x y : Reg) (s : State) : Result :=
  .next (s.setWithFlag x (s.reg y - s.reg x) (noBorrow (s.reg y) (s.reg x)))

/-- 8xyE (R111); `y` is ignored (D16). -/
def execShl (x _y : Reg) (s : State) : Result :=
  .next (s.setWithFlag x (s.reg x <<< 1) (bit7 (s.reg x)))

/-- Cxnn (R118): `V[x] <- RAND() & nn`. The draw is the free value `Config.rand` (log entry 1). -/
def execRnd (x : Reg) (nn : Byte) (s : State) : Result :=
  .next ((s.setReg x (Config.rand s.draws &&& nn)).takeDraw)

end Sys2Proof.Machine
end

