-- ==== Sys2Proof/Machine/Operands.lean ====
section
/-! DEFINITION. Operand forms: immediates zero-extended to the register they meet (30_encoding.md R61), the low nibble of a
register (R122, R140), and memory indirect through `I` with an ascending offset (42_index_memory.md R126). -/

namespace Sys2Proof.Machine

/-- `zext_16(nnn)` (R61, R81). -/
def addr16 (nnn : Addr12) : Word :=
  nnn.setWidth 16

/-- `zext_16(v)` of a register (R91, R121). -/
def byte16 (b : Byte) : Word :=
  b.setWidth 16

/-- `v & 0x0F` as a key index or a font digit (R122, R140, D24). -/
def lowNibble (b : Byte) : Reg :=
  (b.setWidth 4).toFin

/-- The effective address of the `k`-th byte: "the integer `I + i`", not masked (R44, R126). -/
def State.ea (s : State) (k : Nat) : Nat :=
  s.idx.toNat + k

/-- A data access of `n` bytes from `I`: the whole range is checked first, and a fault leaves nothing changed but the PC the fetch
advanced (R44, R126, R152). -/
def withRange (n : Nat) (s : State) (ok : State) : Result :=
  match rangeFault s.idx.toNat n with
  | some a => raiseMemoryFault a s
  | none => .next ok

/-- The registers V0 to Vx (R124, R125). -/
def regsUpTo (x : Reg) : List Reg :=
  allRegs.take (x.val + 1)

/-- `for i in 0 .. x: MemWrite(I + i, 1, V[i])` (R124). -/
def State.storeUpTo (s : State) (x : Reg) : State :=
  s.setBytes (s.ea 0) ((regsUpTo x).map s.reg)

/-- `for i in 0 .. x: V[i] <- MemRead(I + i, 1)` (R125). -/
def State.loadUpTo (s : State) (x : Reg) : State :=
  (regsUpTo x).foldl (fun t i => t.setReg i (s.byteAt (s.ea i.val))) s

/-- `if QUIRK_MEM_INC_I: I <- (I + x + 1) mod 65536` (R124, R125). -/
def State.incIdx (s : State) (x : Reg) : State :=
  if s.cfg.quirkMemIncI then s.setIdx (s.idx + BitVec.ofNat 16 (x.val + 1)) else s

/-- The bytes `Mem[I] .. Mem[I + n - 1]`, lowest address first (R132). -/
def State.spriteBytes (s : State) (n : Nat) : List Byte :=
  (List.range n).map fun r => s.byteAt (s.ea r)

/-- The three decimal digits of a byte, hundreds first (R123). -/
def bcdDigits (b : Byte) : List Byte :=
  [BitVec.ofNat 8 (b.toNat / 100), BitVec.ofNat 8 (b.toNat / 10 % 10), BitVec.ofNat 8 (b.toNat % 10)]

/-- `FONT_BASE + 5 * d` (R122). -/
def glyphAddr (c : Config) (d : Reg) : Word :=
  BitVec.ofNat 16 (c.fontBase.val + 5 * d.val)

end Sys2Proof.Machine
end

