-- ==== Sys2Proof/Machine/Control.lean ====
section
/-! DEFINITION. Control flow (40_control_flow.md). In every meaning `s.pc` is the already-advanced PC (00_scope.md R8). -/

namespace Sys2Proof.Machine

/-- 1nnn (R81): `PC <- zext_16(nnn)`. -/
def execJp (nnn : Addr12) (s : State) : Result :=
  .next (s.setPc (addr16 nnn))

/-- Bnnn (R91): `PC <- zext_16(nnn) + zext_16(V[0])`, not reduced to 12 bits. -/
def execJpV0 (nnn : Addr12) (s : State) : Result :=
  .next (s.setPc (addr16 nnn + byte16 (s.reg 0)))

/-- 2nnn (R82): `StackOverflow` when 16 entries are live, else the already-advanced PC goes to `Stack[SP]`. -/
def execCall (nnn : Addr12) (s : State) : Result :=
  if s.sp.toNat = 16 then raise .stackOverflow s
  else if h : s.sp.toNat < 16 then .next ((s.setStack ⟨s.sp.toNat, h⟩ s.pc (s.sp + 1#8)).setPc (addr16 nnn))
  else .refused (.noStackSlot s.sp)

/-- 00EE (R84): `StackUnderflow` when no entry is live, else `SP <- SP - 1; PC <- Stack[SP]`. -/
def execRet (s : State) : Result :=
  if s.sp.toNat = 0 then raise .stackUnderflow s
  else if h : s.sp.toNat - 1 < 16 then .next ((s.setSp (s.sp - 1#8)).setPc (s.slot ⟨s.sp.toNat - 1, h⟩))
  else .refused (.noStackSlot s.sp)

/-- 3xnn (R86). -/
def execSeImm (x : Reg) (nn : Byte) (s : State) : Result :=
  .next (s.skipIf (s.reg x == nn))

/-- 4xnn (R87). -/
def execSneImm (x : Reg) (nn : Byte) (s : State) : Result :=
  .next (s.skipIf (s.reg x != nn))

/-- 5xy0 (R88). -/
def execSeReg (x y : Reg) (s : State) : Result :=
  .next (s.skipIf (s.reg x == s.reg y))

/-- 9xy0 (R89). -/
def execSneReg (x y : Reg) (s : State) : Result :=
  .next (s.skipIf (s.reg x != s.reg y))

end Sys2Proof.Machine
end

