-- ==== Sys2Proof/Machine/IndexMemory.lean ====
section
/-! DEFINITION. The index register and memory (42_index_memory.md). -/

namespace Sys2Proof.Machine

/-- Annn (R120): `I <- zext_16(nnn)`. -/
def execLdI (nnn : Addr12) (s : State) : Result :=
  .next (s.setIdx (addr16 nnn))

/-- Fx1E (R121): `I <- (I + V[x]) mod 65536`; VF is not written. -/
def execAddI (x : Reg) (s : State) : Result :=
  .next (s.setIdx (s.idx + byte16 (s.reg x)))

/-- Fx29 (R122): `I <- FONT_BASE + 5 * (V[x] & 0x0F)`. -/
def execLdF (x : Reg) (s : State) : Result :=
  .next (s.setIdx (glyphAddr s.cfg (lowNibble (s.reg x))))

/-- Fx33 (R123): the three decimal digits of `V[x]` at `I`, `I + 1`, `I + 2`. -/
def execLdB (x : Reg) (s : State) : Result :=
  withRange 3 s (s.setBytes (s.ea 0) (bcdDigits (s.reg x)))

/-- Fx55 (R124): V0 to Vx to memory from `I`. -/
def execStoreRegs (x : Reg) (s : State) : Result :=
  withRange (x.val + 1) s ((s.storeUpTo x).incIdx x)

/-- Fx65 (R125): V0 to Vx from memory from `I`. -/
def execLoadRegs (x : Reg) (s : State) : Result :=
  withRange (x.val + 1) s ((s.loadUpTo x).incIdx x)

end Sys2Proof.Machine
end

