-- ==== Sys2Proof/Machine/KeypadTimers.lean ====
section
/-! DEFINITION. Keypad and timer instructions, and the key wait (44_keypad_timers.md). -/

namespace Sys2Proof.Machine

/-- Ex9E (R140): skip if `Key[V[x] & 0x0F]` is pressed. -/
def execSkp (x : Reg) (s : State) : Result :=
  .next (s.skipIf (s.pressed (lowNibble (s.reg x))))

/-- ExA1 (R141): skip if it is not pressed. -/
def execSknp (x : Reg) (s : State) : Result :=
  .next (s.skipIf (!s.pressed (lowNibble (s.reg x))))

/-- Fx0A (R145): a pressed key goes to `V[x]` at once; with none pressed the wait begins. -/
def execLdVxK (x : Reg) (s : State) : Result :=
  match anyPressed s with
  | some k => .next (s.setReg x (keyByte k))
  | none => .next (s.startWait x)

/-- One step of the key wait (R62, R146): "it fetches nothing, executes nothing, and leaves PC where the Fx0A left it". -/
def keyWait (s : State) : State :=
  match anyPressed s with
  | some k => (s.setReg s.waitX (keyByte k)).endWait
  | none => s

/-- Fx07 (R142): `V[x] <- DT`. -/
def execLdVxDt (x : Reg) (s : State) : Result :=
  .next (s.setReg x s.dt)

/-- Fx15 (R143): `DT <- V[x]`. -/
def execLdDtVx (x : Reg) (s : State) : Result :=
  .next (s.setDt (s.reg x))

/-- Fx18 (R144): `ST <- V[x]`. -/
def execLdStVx (x : Reg) (s : State) : Result :=
  .next (s.setSt (s.reg x))

end Sys2Proof.Machine
end

