-- ==== Sys2Proof/Machine/Video.lean ====
section
/-! DEFINITION. The display instructions (43_display.md). -/

namespace Sys2Proof.Machine

/-- 00E0 (R131): all pixels unset. -/
def execCls (s : State) : Result :=
  .next (s.setDisplay Display.clear)

/-- Dxyn (R132): the range is checked first; the coordinates are read before VF is written, last, with the collision. -/
def execDrw (x y : Reg) (n : Nibble) (s : State) : Result :=
  let c := s.display.drawSprite ((s.reg x).toNat % 64) ((s.reg y).toNat % 32) (s.spriteBytes n.toNat)
  withRange n.toNat s ((s.setDisplay c.display).setReg VF (flagByte c.collided))

end Sys2Proof.Machine
end

