-- ==== Sys2Proof/Machine/Cycle.lean ====
section
/-! DEFINITION. The step cycle (30_encoding.md R62): the fetch (20_memory.md R43) and `Step()`. -/

namespace Sys2Proof.Machine

/-- `Fetch()` (R43) but for the advance of PC: the opcode, or the address of the `MemoryFault`, "the first one that is out of
range". -/
def fetch (s : State) : Except Nat Opcode :=
  if 4094 < s.pc.toNat then .error (max s.pc.toNat 4096)
  else .ok (opcodeOf (s.byteAt s.pc.toNat) (s.byteAt (s.pc.toNat + 1)))

/-- `Step()` (R62) with its return value: key wait, fetch, decode, execute, in that order (R153). -/
def cycle (s : State) : Result :=
  if s.waiting then .next (keyWait s)
  else
    match fetch s with
    | .error a => raiseMemoryFault a s
    | .ok w =>
      match decode w with
      | .error _ => raise (.unknownOpcode w) s.advance
      | .ok i => exec i s.advance

/-- An address the fetch can read: PC itself where it can (PC <= 4094), else the default program origin, 0x200. -/
def fetchable (pc : Word) : Word :=
  if 4094 < pc.toNat then 0x200#16 else pc

/-- A state whose next `Step()` fetches the opcode `w`: not waiting, and `w`'s two bytes at PC, high byte first (R43, R62). -/
def placeOpcode (s : State) (w : Opcode) : State :=
  ((s.endWait).setPc (fetchable s.pc)).setBytes (fetchable s.pc).toNat (bytesOf w)

end Sys2Proof.Machine
end

