-- ==== Sys2Proof/Machine/Step.lean ====
section
/-! DEFINITION. One step as the driver sees it (30_encoding.md R62, 60_exceptions.md R154). -/

namespace Sys2Proof.Machine

/-- `Step()` under `FAULT_POLICY`: with `halt` a fault ends the run, with `skip` the run goes on from the state of R152. -/
def step (s : State) : Host.Outcome State Fault Refusal :=
  Sys2Proof.Machine.deliver (Sys2Proof.Machine.cycle s)

/-- `s` with an instruction of the opcode table stored where `step` fetches next. The fetch needs `waiting = 0` and a PC of at most
4094; nothing else changes (log entry 18). -/
def State.withFetchWord (s : State) (nbits w : Nat) : State :=
  Sys2Proof.Machine.placeOpcode s (Sys2Proof.tableWord nbits w)

end Sys2Proof.Machine
end

