-- ==== Sys2Proof/Machine/Interface.lean ====
section
/-! DEFINITION. The operations other agents perform on CORE at its boundary (00_scope.md R6): each is atomic, and "any finite
interleaving is a legal history". -/

namespace Sys2Proof.Machine

/-- A timer "decrements toward 0 ..., floored at 0" (R160). -/
def tickTimer (b : Byte) : Byte :=
  if 0 < b.toNat then b - 1#8 else b

/-- `Tick()` (R160): DT and ST, each by 1 where it is above 0; nothing else. -/
def tick (s : State) : State :=
  (s.setDt (tickTimer s.dt)).setSt (tickTimer s.st)

/-- `SetKey(index, pressed)` (R165); an index above 15 "is refused: the operation has no meaning" (D31). -/
def setKey (index : Nat) (pressed : Bool) (s : State) : Result :=
  if h : index < 16 then .next (s.setKeyFlag ⟨index, h⟩ pressed) else .refused (.keyOutsideContract index)

/-- `LoadProgram(bytes, origin)` (R50): `OutOfSpace` with nothing written, or byte N of the file at `origin + N`. -/
def loadProgram (bytes : List Byte) (origin : Nat) (s : State) : Result :=
  if 4096 < origin + bytes.length then raise .outOfSpace s else .next (s.setBytes origin bytes)

/-- `Reset()` (R180): every piece of state at R30's value, the loaded program erased. The parameters stay (R25), and so does the
count of draws: the bytes `RAND()` supplies after a reset are other draws than those before it (log entry 2). -/
def reset (s : State) : State :=
  { State.resetWith s.cfg with draws := s.draws }

/-- `Snapshot()` (R167): "the 32 by 64 grid `D` as it stands"; a pure read. -/
def snapshot (s : State) : Display :=
  s.display

/-- `SoundActive()` (R163): true exactly when ST > 0; a pure read. -/
def soundActive (s : State) : Bool :=
  0 < s.st.toNat

/-- The operations of R6. -/
inductive Operation where
  | reset
  | loadProgram (bytes : List Byte) (origin : Nat)
  | step
  | tick
  | setKey (index : Nat) (pressed : Bool)
  | snapshot
  | soundActive
  deriving DecidableEq, Repr

/-- One operation on CORE, with its own return value: a fault of `Step()` or of `LoadProgram` is returned, not acted on (R150). -/
def perform (op : Operation) (s : State) : Result :=
  match op with
  | .reset => .next (reset s)
  | .loadProgram bytes origin => loadProgram bytes origin s
  | .step => cycle s
  | .tick => .next (tick s)
  | .setKey index pressed => setKey index pressed s
  | .snapshot => .next s
  | .soundActive => .next s

/-- The state an operation leaves: the next state, the state of R152 after a fault, and nothing changed by an operation that is
refused. -/
def settle (s : State) : Result → State
  | .next t => t
  | .fault f => f.after
  | .refused _ => s

/-- A history of CORE: "a single total order of atomic operations" (R51), in any interleaving (R6, D28). A step after a fault is one
that a driver with `FAULT_POLICY = skip` makes (R154); a driver with `halt` makes none. -/
def history (ops : List Operation) (s : State) : State :=
  ops.foldl (fun s op => settle s (perform op s)) s

end Sys2Proof.Machine
end

