-- ==== Sys2Proof/Safety.lean ====
section
/-! DEFINITION. What claims about CORE are stated in: the invariant of every run, the end of a run, and the frames that say what an
instruction leaves unchanged. -/

namespace Sys2Proof.Machine

/-- The invariant of every run whose PROGRAM_ORIGIN is at most 0xFFE: memory is in its canonical form (the model's,
log entry 19); SP is 0 to 16 (R17); PC is at most 0x10FE (R16); and every live return address is at most 0x1000 (R82). -/
abbrev State.Inv (s : State) : Prop :=
  Memory.wf s.cfg.fontBase.val s.mem = true ∧ s.sp.toNat ≤ 16 ∧ s.pc.toNat ≤ 0x10FE ∧
    ∀ k : Fin 16, k.val < s.sp.toNat → (s.slot k).toNat ≤ 0x1000

/-- PC is even, and so is every live return address (R16). -/
abbrev State.EvenPc (s : State) : Prop :=
  s.pc.toNat % 2 = 0 ∧ ∀ k : Fin 16, k.val < s.sp.toNat → (s.slot k).toNat % 2 = 0

/-- R16's condition on the instruction about to run: an executed 1nnn or 2nnn has an even `nnn`, an executed Bnnn an even
`nnn + V[0]`. -/
def evenTarget (i : Instr) (s : State) : Prop :=
  match i with
  | .jp nnn => nnn.toNat % 2 = 0
  | .call nnn => nnn.toNat % 2 = 0
  | .jpV0 nnn => (nnn.toNat + (s.reg 0).toNat) % 2 = 0
  | _ => True

/-- The opcode that the next `Step()` would fetch is `w`: the two bytes at PC, high byte first (R43). -/
abbrev State.fetches (s : State) (w : Opcode) : Prop :=
  s.waiting = false ∧ s.pc.toNat ≤ 4094 ∧ w = s.byteAt s.pc.toNat ++ s.byteAt (s.pc.toNat + 1)

/-- The end of a run by a self-jump (R183 (c)): "an instruction `1nnn` at address `nnn`". -/
def State.atSelfJump (s : State) : Prop :=
  ∃ nnn : Addr12, nnn.toNat = s.pc.toNat ∧ s.fetches (0x1#4 ++ nnn)

/-- What `Execute(insn)` raises, exhaustively (R151), with the value each fault carries (R150) and the state it leaves (R152): `s` is the
state whose PC the fetch has advanced. -/
def faultOf (i : Instr) (s : State) : Option Fault :=
  match i with
  | .call _ => if s.sp.toNat = 16 then some (.stackOverflow s) else none
  | .ret => if s.sp.toNat = 0 then some (.stackUnderflow s) else none
  | .drw _ _ n =>
    if 1 ≤ n.toNat ∧ 4095 < s.idx.toNat + n.toNat - 1 then some (.memoryFault (max s.idx.toNat 4096) s) else none
  | .ldB _ => if 4095 < s.idx.toNat + 2 then some (.memoryFault (max s.idx.toNat 4096) s) else none
  | .storeRegs x => if 4095 < s.idx.toNat + x.val then some (.memoryFault (max s.idx.toNat 4096) s) else none
  | .loadRegs x => if 4095 < s.idx.toNat + x.val then some (.memoryFault (max s.idx.toNat 4096) s) else none
  | _ => none

/-- A pixel `(px, py)` that the sprite of a Dxyn covers with a set bit: row `r` below `n` and column `c` below 8, the start column and
row `V[x] mod 64` and `V[y] mod 32`, wrapping at both edges, bit 7 of each byte leftmost (R132). -/
def State.spriteCovers (s : State) (x y : Reg) (n : Nibble) (py : Fin 32) (px : Fin 64) : Prop :=
  ∃ r c : Nat, r < n.toNat ∧ c < 8 ∧ (s.byteAt (s.idx.toNat + r)).getLsbD (7 - c) = true ∧
    py.val = ((s.reg y).toNat % 32 + r) % 32 ∧ px.val = ((s.reg x).toNat % 64 + c) % 64

/-- Every byte of memory reads as before. -/
def SameMemory (s t : State) : Prop :=
  ∀ a, t.byteAt a = s.byteAt a

/-- Nothing but PC may differ. -/
def OnlyPc (s t : State) : Prop :=
  t = { s with pc := t.pc } ∧ SameMemory s t

/-- Nothing but the registers of the list `rs` may differ. -/
def OnlyRegs (s t : State) (rs : List Reg) : Prop :=
  t = { s with v := t.v } ∧ (∀ r, r ∉ rs → t.reg r = s.reg r) ∧ SameMemory s t

/-- What a logic instruction with the bit operation `f` does from `s` to `t` (R104 to R106): bit by bit, VF untouched unless it is the
destination; and with QUIRK_VF_RESET, VF cleared after the result is stored, even when it is the destination. -/
def LogicOf (f : Bool → Bool → Bool) (s t : State) (x y : Reg) : Prop :=
  (s.cfg.quirkVfReset = false →
    (∀ k < 8, (t.reg x).getLsbD k = f ((s.reg x).getLsbD k) ((s.reg y).getLsbD k)) ∧ OnlyRegs s t [x]) ∧
  (s.cfg.quirkVfReset = true →
    (x ≠ VF → ∀ k < 8, (t.reg x).getLsbD k = f ((s.reg x).getLsbD k) ((s.reg y).getLsbD k)) ∧
      t.reg VF = 0x00#8 ∧ OnlyRegs s t [x, VF])

/-- Nothing but `I` may differ. -/
def OnlyIdx (s t : State) : Prop :=
  t = { s with idx := t.idx } ∧ SameMemory s t

/-- Every byte outside `lo .. lo + n - 1` reads as before. -/
def SameOutside (s t : State) (lo n : Nat) : Prop :=
  ∀ a, a < lo ∨ lo + n ≤ a → t.byteAt a = s.byteAt a

/-- Nothing but `I` and the bytes `lo .. lo + n - 1` may differ. -/
def OnlyIdxAndBytes (s t : State) (lo n : Nat) : Prop :=
  t = { s with idx := t.idx, mem := t.mem } ∧ SameOutside s t lo n

end Sys2Proof.Machine
end

