-- ==== Sys2Proof/Certificates/Slice0/Obligations.lean ====
section
/-! DEFINITION. The statements for the provers, from the numbered rules of spec/. In a statement about `exec`, `s` is the state whose PC
the fetch has advanced (00_scope.md R8: "`PC` is the already-advanced program counter"). -/

open Sys2Proof Sys2Proof.Machine Host

/-! ### Encoding (30_encoding.md) -/

/-- R60, R61, R63: no bit of an instruction is lost by encoding it. -/
def Obligations.DecodeInvertsEncode : Prop :=
  ∀ i : Instr, decode (encode i) = .ok i ∧ decodeBytes (encodeBytes i) = .ok (i, [])

/-- R60, R63: a legal word is the encoding of the instruction it decodes to, so that no two words decode to one `Instr`. The second
half is the model's choice (log entry 23): `shr` and `shl` keep the `y` that R109 and R111 do not use, where the spec reads 8126 and
8136 alike as SHR V1. -/
def Obligations.EncodeInvertsDecode : Prop :=
  ∀ (w : Opcode) (i : Instr), decode w = .ok i → encode i = w

/-- R63: the decoder is the match of `opcode & mask` against `match` over the 34 rows, which are pairwise disjoint. -/
def Obligations.DecodeIsTheOpcodeMap : Prop :=
  opcodeTable.length = 34 ∧
    ∀ w : Opcode,
      (∀ i, decode w = .ok i → ∃ r ∈ opcodeTable, r.mnemonic = i.mnemonic ∧ w &&& r.mask = r.value) ∧
      (∀ r ∈ opcodeTable, w &&& r.mask = r.value → ∃ i, decode w = .ok i ∧ i.mnemonic = r.mnemonic) ∧
      (∀ r ∈ opcodeTable, ∀ r' ∈ opcodeTable, w &&& r.mask = r.value → w &&& r'.mask = r'.value → r = r')

/-- R64: the illegal words, family by family; each is reported with the whole word. -/
def Obligations.IllegalWordsByFamily : Prop :=
  ∀ w : Opcode,
    let family := w.toNat / 4096
    let n := w.toNat % 16
    let nn := w.toNat % 256
    decode w = .error (.unknownOpcode w) ↔
      (family = 0 ∧ w.toNat ≠ 0x00E0 ∧ w.toNat ≠ 0x00EE) ∨
      ((family = 5 ∨ family = 9) ∧ n ≠ 0) ∨
      (family = 8 ∧ (8 ≤ n ∧ n ≠ 14)) ∨
      (family = 14 ∧ nn ≠ 0x9E ∧ nn ≠ 0xA1) ∨
      (family = 15 ∧ nn ∉ [0x07, 0x0A, 0x15, 0x18, 0x1E, 0x29, 0x33, 0x55, 0x65])

/-- R61: the value of each field, and how the fields overlap. -/
def Obligations.FieldsOfAWord : Prop :=
  ∀ w : Opcode,
    let f := Fields.ofWord w
    f.family.toNat = w.toNat / 4096 ∧ f.x.toNat = w.toNat / 256 % 16 ∧ f.y.toNat = w.toNat / 16 % 16 ∧
      f.n.toNat = w.toNat % 16 ∧ f.nn.toNat = w.toNat % 256 ∧ f.nnn.toNat = w.toNat % 4096 ∧
      f.nn = f.y ++ f.n ∧ f.nnn = f.x ++ f.y ++ f.n

/-- Words written out from R63, one of each format, decode to the instruction they stand for. -/
def Obligations.SampleWordsDecode : Prop :=
  decode 0x00E0#16 = .ok .cls ∧ decode 0x1ABC#16 = .ok (.jp 0xABC#12) ∧ decode 0x332A#16 = .ok (.seImm 3 0x2A#8) ∧
    decode 0x8127#16 = .ok (.subn 1 2) ∧ decode 0xD125#16 = .ok (.drw 1 2 5#4) ∧ decode 0xF229#16 = .ok (.ldF 2) ∧
    decode 0x5121#16 = .error (.unknownOpcode 0x5121#16)

/-! ### The step cycle and faults (30_encoding.md R62, 60_exceptions.md) -/

/-- R62: when the two bytes at PC decode to `i`, `Step()` is `exec i` on the state whose PC is 2 further and which is otherwise the
same; what reaches the driver goes through FAULT_POLICY (`deliver`). -/
def Obligations.StepRunsTheDecodedInstruction : Prop :=
  ∀ (s : State) (w : Opcode) (i : Instr), s.fetches w → decode w = .ok i →
    cycle s = exec i s.advance ∧ step s = deliver (exec i s.advance) ∧
      OnlyPc s s.advance ∧ s.advance.pc.toNat = s.pc.toNat + 2

/-- R43: a fetch at PC up to 4094 reads the two bytes at PC and PC + 1, high byte first; above, it faults with nothing changed. -/
def Obligations.FetchIsBigEndianOrFaults : Prop :=
  ∀ s : State,
    (s.pc.toNat ≤ 4094 → ∃ w, fetch s = .ok w ∧
      w.toNat = 256 * (s.byteAt s.pc.toNat).toNat + (s.byteAt (s.pc.toNat + 1)).toNat) ∧
    (4094 < s.pc.toNat → fetch s = .error (max s.pc.toNat 4096) ∧
      (s.waiting = false → cycle s = .fault (.memoryFault (max s.pc.toNat 4096) s)))

/-- R151, R153: exactly when a `Step()` faults, with which fault: first the fetch, then decode, then the instruction. -/
def Obligations.FaultsOfAStep : Prop :=
  ∀ (s : State) (f : Fault), cycle s = .fault f ↔
    s.waiting = false ∧
      ((4094 < s.pc.toNat ∧ f = .memoryFault (max s.pc.toNat 4096) s) ∨
        ∃ w, s.fetches w ∧
          ((decode w = .error (.unknownOpcode w) ∧ f = .unknownOpcode w s.advance) ∨
            ∃ i, decode w = .ok i ∧ faultOf i s.advance = some f))

/-- R152: the state after each fault of a `Step()`. -/
def Obligations.FaultsArePrecise : Prop :=
  ∀ (s : State) (f : Fault), cycle s = .fault f →
    (4094 < s.pc.toNat ∧ f = .memoryFault (max s.pc.toNat 4096) s ∧ f.after = s ∧ cycle f.after = .fault f) ∨
      (s.pc.toNat ≤ 4094 ∧ f.after = { s with pc := s.pc + 2#16 } ∧ f.after.pc.toNat = s.pc.toNat + 2)

/-- R154: under `halt` the driver's run ends with the fault, under `skip` it goes on from the state of R152; a step without a fault is
the same under both. -/
def Obligations.FaultPolicyDecides : Prop :=
  ∀ s : State,
    (∀ f, cycle s = .fault f → s.cfg.faultPolicy = .halt → step s = .fault f) ∧
    (∀ f, cycle s = .fault f → s.cfg.faultPolicy = .skip → step s = .next f.after) ∧
    (∀ t, cycle s = .next t → step s = .next t)

/-- R183, R17: with SP in its legal range no instruction and no step is ever refused. -/
def Obligations.NothingIsRefused : Prop :=
  ∀ s : State, s.sp.toNat ≤ 16 → ∀ r : Refusal, cycle s ≠ .refused r ∧ step s ≠ .refused r ∧ ∀ i, exec i s ≠ .refused r

/-- R146: one step of the key wait. -/
def Obligations.KeyWaitStep : Prop :=
  ∀ s : State, s.waiting = true →
    ((∀ k, s.pressed k = false) → cycle s = .next s) ∧
    (∀ k, s.pressed k = true → (∀ j, j < k → s.pressed j = false) →
      ∃ t, cycle s = .next t ∧ t = { s with v := t.v, waiting := false } ∧ (t.reg s.waitX).toNat = k.val ∧
        (∀ r, r ≠ s.waitX → t.reg r = s.reg r) ∧ SameMemory s t)

/-- R183 (c), R81: at a self-jump a step is legal and changes nothing. -/
def Obligations.SelfJumpIsStable : Prop :=
  ∀ s : State, s.atSelfJump → step s = .next s

/-! ### Rules about every step -/

/-- R16, R17, R82, R42: the invariant of every run is kept by every step, under either fault policy. Its clause on the canonical form
of memory is the model's (log entry 19). -/
def Obligations.StepKeepsInvariant : Prop :=
  ∀ s t : State, s.Inv → step s = .next t → t.Inv

/-- R30, R16, R17: the invariant holds after reset, for every PROGRAM_ORIGIN up to 0xFFE. Its clause on the canonical form of memory is
the model's (log entry 19), and so is that `State.reset` has R5's default parameters (log entry 3). -/
def Obligations.ResetMeetsInvariant : Prop :=
  State.reset.Inv ∧ ∀ c : Config, c.wellFormed = true → (State.resetWith c).Inv

/-- R6, R16, R17: whatever operations the outside world makes, in whatever order, the invariant holds. Histories are the model's
(log entry 18: after a fault the state of R152, after a refusal no change), and so is the canonical form of memory (log entry 19). -/
def Obligations.EveryHistoryKeepsInvariant : Prop :=
  ∀ (c : Config) (ops : List Operation), c.wellFormed = true → (history ops (State.resetWith c)).Inv

/-- R6, R16, R17: each operation of the outside world keeps the invariant and the parameters, from every state that meets it: a step,
with or without a fault and under either policy, a tick, a key, a load of any bytes, a reset and the pure reads. What an operation
that faults or is refused leaves is `settle` (log entry 18); the canonical form of memory is the model's (log entry 19). -/
def Obligations.EveryOperationKeepsInvariant : Prop :=
  ∀ (s : State) (op : Operation), s.Inv → s.cfg.wellFormed = true →
    (settle s (perform op s)).Inv ∧ (settle s (perform op s)).cfg = s.cfg

/-- R16: PC stays even as long as executed targets are even. -/
def Obligations.PcStaysEven : Prop :=
  ∀ (s t : State), s.EvenPc → s.sp.toNat ≤ 16 →
    (∀ w i, s.fetches w → decode w = .ok i → evenTarget i s.advance) → step s = .next t → t.EvenPc

/-- R15: PC after every instruction but jumps, CALL, RET and the six skips, and in the key wait. -/
def Obligations.PcOfEveryOtherInstruction : Prop :=
  (∀ (i : Instr) (s t : State), exec i s = .next t →
      t.pc = s.pc ∨
        i = .ret ∨ (∃ nnn, i = .jp nnn ∨ i = .call nnn ∨ i = .jpV0 nnn) ∨
        ((∃ x nn, i = .seImm x nn ∨ i = .sneImm x nn) ∨ (∃ x y, i = .seReg x y ∨ i = .sneReg x y) ∨
          (∃ x, i = .skp x ∨ i = .sknp x)) ∧ t.pc = s.pc + 2#16) ∧
    ∀ s t : State, s.waiting = true → cycle s = .next t → t.pc = s.pc

/-- R21, R25: no step changes the keypad or the parameters, whatever it answers. -/
def Obligations.StepsLeaveKeypadAndParameters : Prop :=
  ∀ s t : State, (cycle s = .next t ∨ ∃ f, cycle s = .fault f ∧ t = f.after) → t.key = s.key ∧ t.cfg = s.cfg

/-- R20, R23: the only writers of the display are Dxyn and 00E0; the only instructions that write memory are Fx33 and Fx55, which write
at `I` and above. -/
def Obligations.DisplayAndMemoryWriters : Prop :=
  ∀ (i : Instr) (s t : State), exec i s = .next t →
    (t.display = s.display ∨ i = .cls ∨ ∃ x y n, i = .drw x y n) ∧
    ((∀ a, t.byteAt a = s.byteAt a) ∨
      ((∃ x, i = .ldB x ∨ i = .storeRegs x) ∧ ∀ a, a < s.idx.toNat ∨ s.idx.toNat + 16 ≤ a → t.byteAt a = s.byteAt a))

/-- R13, R17, R18: the writers of I, SP and the call stack. -/
def Obligations.IndexAndStackWriters : Prop :=
  ∀ (i : Instr) (s t : State), exec i s = .next t →
    (t.idx = s.idx ∨ (∃ nnn, i = .ldI nnn) ∨ (∃ x, i = .addI x ∨ i = .ldF x) ∨
      s.cfg.quirkMemIncI = true ∧ ∃ x, i = .storeRegs x ∨ i = .loadRegs x) ∧
    (t.sp = s.sp ∨ i = .ret ∨ ∃ nnn, i = .call nnn) ∧
    (t.stack = s.stack ∨ ∃ nnn, i = .call nnn)

/-- R19, R22: the writers of DT, ST and the key-wait state; a step never runs a timer down. -/
def Obligations.TimerAndWaitWriters : Prop :=
  ∀ (i : Instr) (s t : State), exec i s = .next t →
    (t.dt = s.dt ∨ ∃ x, i = .ldDtVx x) ∧ (t.st = s.st ∨ ∃ x, i = .ldStVx x) ∧
      ((t.waiting = s.waiting ∧ t.waitX = s.waitX) ∨ ∃ x, i = .ldVxK x ∧ ∀ k, s.pressed k = false)

/-- R12: which instructions write VF: the flag writers, the logic forms when QUIRK_VF_RESET is true, and those whose destination is
VF itself. -/
def Obligations.VfWriters : Prop :=
  ∀ (i : Instr) (s t : State), exec i s = .next t →
    t.reg VF = s.reg VF ∨
      (∃ x y, i = .addReg x y ∨ i = .subReg x y ∨ i = .subn x y ∨ i = .shr x y ∨ i = .shl x y) ∨ (∃ x y n, i = .drw x y n) ∨
      (s.cfg.quirkVfReset = true ∧ ∃ x y, i = .orReg x y ∨ i = .andReg x y ∨ i = .xorReg x y) ∨
      (∃ y, i = .ldReg VF y ∨ i = .orReg VF y ∨ i = .andReg VF y ∨ i = .xorReg VF y) ∨
      (∃ nn, i = .ldImm VF nn ∨ i = .addImm VF nn ∨ i = .rnd VF nn) ∨
      i = .ldVxDt VF ∨ i = .ldVxK VF ∨ i = .loadRegs VF

/-- R133: but for Dxyn, whose collision flag reads the display, what an instruction does outside the display does not depend on the
display. -/
def Obligations.DisplayIsNotReadBack : Prop :=
  ∀ (i : Instr) (s t : State) (d : Display), (∀ x y n, i ≠ .drw x y n) → exec i s = .next t →
    ∃ d', exec i { s with display := d } = .next { t with display := d' }

/-- R19, R18, R22: no instruction observes ST, `wait_x` or a call-stack slot at SP or above: changing one of them changes nothing else that
the instruction does. -/
def Obligations.HiddenStateIsNotObserved : Prop :=
  ∀ (i : Instr) (s t : State), exec i s = .next t →
    (∀ b, ∃ b', exec i { s with st := b } = .next { t with st := b' }) ∧
    (∀ r, ∃ r', exec i { s with waitX := r } = .next { t with waitX := r' }) ∧
    (∀ (k : Fin 16) (w : Word), s.sp.toNat ≤ k.val →
      ∃ u, exec i { s with stack := s.stack.set k.val w } = .next u ∧ u = { t with stack := u.stack } ∧
        ∀ j : Fin 16, j.val < t.sp.toNat → u.slot j = t.slot j)

/-! ### Control flow (40_control_flow.md) -/

/-- R81, R91: the jumps complete in every state, with no reduction of Bnnn's sum; a target above 4094 makes the next step fault at its
fetch. -/
def Obligations.JumpsSetPc : Prop :=
  ∀ (s : State) (nnn : Addr12),
    decode (0x1#4 ++ nnn) = .ok (.jp nnn) ∧
    decode (0xB#4 ++ nnn) = .ok (.jpV0 nnn) ∧
    (∃ t, exec (.jp nnn) s = .next t ∧ t.pc.toNat = nnn.toNat ∧ OnlyPc s t ∧
      (nnn.toNat = 0xFFF → s.waiting = false → cycle t = .fault (.memoryFault 4096 t))) ∧
    (∃ t, exec (.jpV0 nnn) s = .next t ∧ t.pc.toNat = nnn.toNat + (s.reg 0).toNat ∧ OnlyPc s t ∧
      (4094 < nnn.toNat + (s.reg 0).toNat → s.waiting = false →
        cycle t = .fault (.memoryFault (max (nnn.toNat + (s.reg 0).toNat) 4096) t)))

/-- R82: CALL pushes the already-advanced PC, or overflows with nothing changed. -/
def Obligations.CallPushesOrOverflows : Prop :=
  ∀ (s : State) (nnn : Addr12),
    decode (0x2#4 ++ nnn) = .ok (.call nnn) ∧
    (∀ k : Fin 16, s.sp.toNat = k.val →
      ∃ t, exec (.call nnn) s = .next t ∧ t.pc.toNat = nnn.toNat ∧ t.sp.toNat = s.sp.toNat + 1 ∧ t.slot k = s.pc ∧
        (∀ j, j ≠ k → t.slot j = s.slot j) ∧ t = { s with pc := t.pc, sp := t.sp, stack := t.stack } ∧ SameMemory s t) ∧
    (s.sp.toNat = 16 → exec (.call nnn) s = .fault (.stackOverflow s))

/-- R84: RET pops the newest live entry, or underflows with nothing changed; the slots keep their bits. -/
def Obligations.ReturnPopsOrUnderflows : Prop :=
  ∀ s : State,
    decode 0x00EE#16 = .ok .ret ∧
    (∀ k : Fin 16, s.sp.toNat = k.val + 1 →
      ∃ t, exec .ret s = .next t ∧ t.pc = s.slot k ∧ t.sp.toNat = k.val ∧ t = { s with pc := t.pc, sp := t.sp } ∧
        SameMemory s t) ∧
    (s.sp.toNat = 0 → exec .ret s = .fault (.stackUnderflow s))

/-- R82, R84: whatever a subroutine did to the rest of the state, if it left SP and the stack as CALL left them, RET comes back to the
instruction after the CALL with the stack as deep as before. -/
def Obligations.ReturnFollowsCall : Prop :=
  ∀ (s t u : State) (nnn : Addr12), exec (.call nnn) s = .next t → u.sp = t.sp → u.stack = t.stack →
    ∃ w, exec .ret u = .next w ∧ w.pc = s.pc ∧ w.sp = s.sp

/-- R86, R87: the skips on an immediate. -/
def Obligations.SkipsOnImmediate : Prop :=
  ∀ (s : State) (x : Reg) (nn : Byte),
    decode (0x3#4 ++ nibOf x ++ nn) = .ok (.seImm x nn) ∧
    decode (0x4#4 ++ nibOf x ++ nn) = .ok (.sneImm x nn) ∧
    (∃ t, exec (.seImm x nn) s = .next t ∧ OnlyPc s t ∧ t.pc = if s.reg x = nn then s.pc + 2#16 else s.pc) ∧
    (∃ t, exec (.sneImm x nn) s = .next t ∧ OnlyPc s t ∧ t.pc = if s.reg x ≠ nn then s.pc + 2#16 else s.pc)

/-- R88, R89: the skips on two registers; with `x = y` 5xy0 always skips and 9xy0 never does. -/
def Obligations.SkipsOnRegisters : Prop :=
  ∀ (s : State) (x y : Reg),
    decode (0x5#4 ++ nibOf x ++ nibOf y ++ 0x0#4) = .ok (.seReg x y) ∧
    decode (0x9#4 ++ nibOf x ++ nibOf y ++ 0x0#4) = .ok (.sneReg x y) ∧
    (∃ t, exec (.seReg x y) s = .next t ∧ OnlyPc s t ∧ (t.pc = if s.reg x = s.reg y then s.pc + 2#16 else s.pc) ∧
      (x = y → t.pc = s.pc + 2#16)) ∧
    (∃ t, exec (.sneReg x y) s = .next t ∧ OnlyPc s t ∧ (t.pc = if s.reg x ≠ s.reg y then s.pc + 2#16 else s.pc) ∧
      (x = y → t.pc = s.pc))

/-! ### Load, arithmetic, logic, shift, random (41_load_arith.md) -/

/-- R101, R103: the loads. -/
def Obligations.LoadsOfARegister : Prop :=
  ∀ (s : State) (x y : Reg) (nn : Byte),
    decode (0x6#4 ++ nibOf x ++ nn) = .ok (.ldImm x nn) ∧
    decode (0x8#4 ++ nibOf x ++ nibOf y ++ 0x0#4) = .ok (.ldReg x y) ∧
    (∃ t, exec (.ldImm x nn) s = .next t ∧ t.reg x = nn ∧ OnlyRegs s t [x]) ∧
    (∃ t, exec (.ldReg x y) s = .next t ∧ t.reg x = s.reg y ∧ OnlyRegs s t [x])

/-- R102: 7xnn wraps and writes no flag. -/
def Obligations.AddImmediateWrapsWithoutFlag : Prop :=
  ∀ (s : State) (x : Reg) (nn : Byte),
    decode (0x7#4 ++ nibOf x ++ nn) = .ok (.addImm x nn) ∧
    ∃ t, exec (.addImm x nn) s = .next t ∧ (t.reg x).toNat = ((s.reg x).toNat + nn.toNat) % 256 ∧ OnlyRegs s t [x] ∧
      (x ≠ VF → t.reg VF = s.reg VF)

/-- R104, R105, R106: the logic forms, bit by bit, and QUIRK_VF_RESET applied after the result. -/
def Obligations.LogicAndTheVfQuirk : Prop :=
  ∀ (s : State) (x y : Reg),
    decode (0x8#4 ++ nibOf x ++ nibOf y ++ 0x1#4) = .ok (.orReg x y) ∧
    decode (0x8#4 ++ nibOf x ++ nibOf y ++ 0x2#4) = .ok (.andReg x y) ∧
    decode (0x8#4 ++ nibOf x ++ nibOf y ++ 0x3#4) = .ok (.xorReg x y) ∧
    (∃ t, exec (.orReg x y) s = .next t ∧ LogicOf or s t x y) ∧
    (∃ t, exec (.andReg x y) s = .next t ∧ LogicOf and s t x y) ∧
    (∃ t, exec (.xorReg x y) s = .next t ∧ LogicOf xor s t x y)

/-- R107: 8xy4 writes the sum modulo 256, then the carry to VF. -/
def Obligations.AddWritesSumThenCarry : Prop :=
  ∀ (s : State) (x y : Reg),
    decode (0x8#4 ++ nibOf x ++ nibOf y ++ 0x4#4) = .ok (.addReg x y) ∧
    ∃ t, exec (.addReg x y) s = .next t ∧ OnlyRegs s t [x, VF] ∧
      (x ≠ VF → (t.reg x).toNat = ((s.reg x).toNat + (s.reg y).toNat) % 256) ∧
      (t.reg VF).toNat = if 255 < (s.reg x).toNat + (s.reg y).toNat then 1 else 0

/-- R108, R110: 8xy5 and 8xy7 write the difference modulo 256, then 1 to VF when there was no borrow. -/
def Obligations.SubtractWritesDifferenceThenNoBorrow : Prop :=
  ∀ (s : State) (x y : Reg),
    decode (0x8#4 ++ nibOf x ++ nibOf y ++ 0x5#4) = .ok (.subReg x y) ∧
    decode (0x8#4 ++ nibOf x ++ nibOf y ++ 0x7#4) = .ok (.subn x y) ∧
    (∃ t, exec (.subReg x y) s = .next t ∧ OnlyRegs s t [x, VF] ∧
      (x ≠ VF → ((t.reg x).toNat : Int) = ((s.reg x).toNat - (s.reg y).toNat : Int) % 256) ∧
      (t.reg VF).toNat = if (s.reg y).toNat ≤ (s.reg x).toNat then 1 else 0) ∧
    (∃ t, exec (.subn x y) s = .next t ∧ OnlyRegs s t [x, VF] ∧
      (x ≠ VF → ((t.reg x).toNat : Int) = ((s.reg y).toNat - (s.reg x).toNat : Int) % 256) ∧
      (t.reg VF).toNat = if (s.reg x).toNat ≤ (s.reg y).toNat then 1 else 0)

/-- R109, R111: the shifts move `V[x]` by one bit whatever `y` is, then the bit shifted out goes to VF. -/
def Obligations.ShiftsMoveOneBitThenFlag : Prop :=
  ∀ (s : State) (x y : Reg),
    decode (0x8#4 ++ nibOf x ++ nibOf y ++ 0x6#4) = .ok (.shr x y) ∧
    decode (0x8#4 ++ nibOf x ++ nibOf y ++ 0xE#4) = .ok (.shl x y) ∧
    (∃ t, exec (.shr x y) s = .next t ∧ OnlyRegs s t [x, VF] ∧ (x ≠ VF → (t.reg x).toNat = (s.reg x).toNat / 2) ∧
      (t.reg VF).toNat = (s.reg x).toNat % 2) ∧
    (∃ t, exec (.shl x y) s = .next t ∧ OnlyRegs s t [x, VF] ∧ (x ≠ VF → (t.reg x).toNat = (s.reg x).toNat * 2 % 256) ∧
      (t.reg VF).toNat = (s.reg x).toNat / 128)

/-- R118: Cxnn loads the drawn byte, whatever it is, masked by `nn`; the next draw is another. The byte drawn is the model's free value
(log entry 1). -/
def Obligations.RandomIsMaskedDraw : Prop :=
  ∀ (s : State) (x : Reg) (nn : Byte),
    decode (0xC#4 ++ nibOf x ++ nn) = .ok (.rnd x nn) ∧
    ∃ t, exec (.rnd x nn) s = .next t ∧ t.reg x = Config.rand s.draws &&& nn ∧ t = { s with v := t.v, draws := s.draws + 1 } ∧
      (∀ r, r ≠ x → t.reg r = s.reg r) ∧ SameMemory s t ∧
      ∀ k, nn.getLsbD k = false → (t.reg x).getLsbD k = false

/-! ### Index register and memory (42_index_memory.md, 20_memory.md) -/

/-- R120, R121, R122: the instructions that set I; none writes VF, none reads memory. -/
def Obligations.IndexRegisterIsSet : Prop :=
  ∀ (s : State) (x : Reg) (nnn : Addr12),
    decode (0xA#4 ++ nnn) = .ok (.ldI nnn) ∧
    decode (0xF#4 ++ nibOf x ++ 0x1E#8) = .ok (.addI x) ∧
    decode (0xF#4 ++ nibOf x ++ 0x29#8) = .ok (.ldF x) ∧
    (∃ t, exec (.ldI nnn) s = .next t ∧ t.idx.toNat = nnn.toNat ∧ OnlyIdx s t) ∧
    (∃ t, exec (.addI x) s = .next t ∧ t.idx.toNat = (s.idx.toNat + (s.reg x).toNat) % 65536 ∧ OnlyIdx s t) ∧
    (∃ t, exec (.ldF x) s = .next t ∧ t.idx.toNat = s.cfg.fontBase.val + 5 * ((s.reg x).toNat % 16) ∧ OnlyIdx s t)

/-- R123: Fx33 stores the three decimal digits, or faults with nothing changed. -/
def Obligations.BcdStoresThreeDigits : Prop :=
  ∀ (s : State) (x : Reg),
    decode (0xF#4 ++ nibOf x ++ 0x33#8) = .ok (.ldB x) ∧
    (s.idx.toNat + 2 ≤ 4095 →
      ∃ t, exec (.ldB x) s = .next t ∧ t = { s with mem := t.mem } ∧ SameOutside s t (s.ea 0) 3 ∧
        (t.byteAt (s.ea 0)).toNat = (s.reg x).toNat / 100 ∧ (t.byteAt (s.ea 1)).toNat = (s.reg x).toNat / 10 % 10 ∧
        (t.byteAt (s.ea 2)).toNat = (s.reg x).toNat % 10) ∧
    (4095 < s.idx.toNat + 2 → exec (.ldB x) s = .fault (.memoryFault (max s.idx.toNat 4096) s))

/-- R124: Fx55 stores V0 to Vx, and the next fetch sees the new bytes; or it faults with nothing changed. I moves only under
QUIRK_MEM_INC_I. -/
def Obligations.StoreRegistersFromV0 : Prop :=
  ∀ (s : State) (x : Reg),
    decode (0xF#4 ++ nibOf x ++ 0x55#8) = .ok (.storeRegs x) ∧
    (s.idx.toNat + x.val ≤ 4095 →
      ∃ t, exec (.storeRegs x) s = .next t ∧ OnlyIdxAndBytes s t (s.ea 0) (x.val + 1) ∧
        (∀ r : Reg, r.val ≤ x.val → t.byteAt (s.ea r.val) = s.reg r) ∧
        (t.idx.toNat = if s.cfg.quirkMemIncI = true then (s.idx.toNat + x.val + 1) % 65536 else s.idx.toNat) ∧
        (s.pc.toNat ≤ 4094 → fetch t = .ok (t.byteAt s.pc.toNat ++ t.byteAt (s.pc.toNat + 1)))) ∧
    (4095 < s.idx.toNat + x.val → exec (.storeRegs x) s = .fault (.memoryFault (max s.idx.toNat 4096) s))

/-- R125: Fx65 loads V0 to Vx, or faults with nothing changed; I moves only under QUIRK_MEM_INC_I. -/
def Obligations.LoadRegistersFromV0 : Prop :=
  ∀ (s : State) (x : Reg),
    decode (0xF#4 ++ nibOf x ++ 0x65#8) = .ok (.loadRegs x) ∧
    (s.idx.toNat + x.val ≤ 4095 →
      ∃ t, exec (.loadRegs x) s = .next t ∧ t = { s with v := t.v, idx := t.idx } ∧ SameMemory s t ∧
        (∀ r : Reg, r.val ≤ x.val → t.reg r = s.byteAt (s.idx.toNat + r.val)) ∧
        (∀ r : Reg, x.val < r.val → t.reg r = s.reg r) ∧
        t.idx.toNat = if s.cfg.quirkMemIncI = true then (s.idx.toNat + x.val + 1) % 65536 else s.idx.toNat) ∧
    (4095 < s.idx.toNat + x.val → exec (.loadRegs x) s = .fault (.memoryFault (max s.idx.toNat 4096) s))

/-- R124, R125: registers saved by Fx55 come back by Fx65, whatever the registers held in between. -/
def Obligations.LoadRestoresStoredRegisters : Prop :=
  ∀ (s t : State) (x : Reg) (v' : Vector Byte 16), exec (.storeRegs x) s = .next t →
    ∃ u, exec (.loadRegs x) { t with v := v', idx := s.idx } = .next u ∧ ∀ r : Reg, r.val ≤ x.val → u.reg r = s.reg r

/-- R54: an opcode stored by Fx55 is the one the very next fetch reads. -/
def Obligations.StoredOpcodeIsFetched : Prop :=
  ∀ (s t : State) (x : Reg), exec (.storeRegs x) s = .next t → 1 ≤ x.val → s.pc = s.idx → s.waiting = false →
    t.fetches (s.reg 0 ++ s.reg 1)

/-- R41, R42: one byte read or written, inside memory and above it; a write changes no other byte and keeps the canonical form. -/
def Obligations.ByteReadsAndWrites : Prop :=
  ∀ (s : State) (a : Nat) (b : Byte),
    (a ≤ 4095 → memRead s a = .ok (s.byteAt a) ∧
      ∃ t, memWrite s a b = .ok t ∧ t = { s with mem := t.mem } ∧ t.byteAt a = b ∧ (∀ c, c ≠ a → t.byteAt c = s.byteAt c) ∧
        (Memory.wf s.cfg.fontBase.val s.mem = true → Memory.wf s.cfg.fontBase.val t.mem = true)) ∧
    (4095 < a → memRead s a = .error a ∧ memWrite s a b = .error a)

/-- R24, R122: after Fx29, while the 80 font bytes are intact (whatever the rest of memory holds), the five bytes at I are the glyph of
the digit. -/
def Obligations.FontSpriteIsAtIndex : Prop :=
  ∀ (s : State) (x : Reg), (∀ k < 80, s.byteAt (s.cfg.fontBase.val + k) = font.getD k 0x00#8) →
    ∃ t, exec (.ldF x) s = .next t ∧
      ∀ k < 5, t.byteAt (t.idx.toNat + k) = font.getD (5 * ((s.reg x).toNat % 16) + k) 0x00#8

/-! ### Display (43_display.md) -/

/-- R131: 00E0 unsets every pixel and nothing else. -/
def Obligations.ClearUnsetsEveryPixel : Prop :=
  decode 0x00E0#16 = .ok .cls ∧
    ∀ s : State, ∃ t, exec .cls s = .next t ∧ (∀ y x, t.display.pixel y x = false) ∧ t = { s with display := t.display } ∧
      SameMemory s t

/-- R132: Dxyn toggles exactly the pixels under the sprite's set bits, wrapping at both edges, and VF tells whether a set pixel was
turned off; or it faults with nothing changed. -/
def Obligations.DrawXorsAndReportsCollision : Prop :=
  ∀ (s : State) (x y : Reg) (n : Nibble),
    decode (0xD#4 ++ nibOf x ++ nibOf y ++ n) = .ok (.drw x y n) ∧
    (n.toNat = 0 ∨ s.idx.toNat + n.toNat - 1 ≤ 4095 →
      ∃ t, exec (.drw x y n) s = .next t ∧ t = { s with v := t.v, display := t.display } ∧ SameMemory s t ∧
        (∀ r, r ≠ VF → t.reg r = s.reg r) ∧
        (∀ py px, s.spriteCovers x y n py px → t.display.pixel py px = !s.display.pixel py px) ∧
        (∀ py px, ¬s.spriteCovers x y n py px → t.display.pixel py px = s.display.pixel py px) ∧
        ((∃ py px, s.spriteCovers x y n py px ∧ s.display.pixel py px = true) → t.reg VF = 0x01#8) ∧
        ((¬∃ py px, s.spriteCovers x y n py px ∧ s.display.pixel py px = true) → t.reg VF = 0x00#8)) ∧
    (1 ≤ n.toNat ∧ 4095 < s.idx.toNat + n.toNat - 1 →
      exec (.drw x y n) s = .fault (.memoryFault (max s.idx.toNat 4096) s))

/-- R132: "Drawing the same sprite twice at the same place restores the display"; the second draw reports a collision exactly when the
first one set a pixel. -/
def Obligations.DrawTwiceRestores : Prop :=
  ∀ (s t : State) (x y : Reg) (n : Nibble), x ≠ VF → y ≠ VF → exec (.drw x y n) s = .next t →
    ∃ u, exec (.drw x y n) t = .next u ∧ u.display = s.display ∧
      (u.reg VF = 0x01#8 ↔ ∃ py px, s.display.pixel py px = false ∧ t.display.pixel py px = true)

/-! ### Keypad and timers (44_keypad_timers.md, 60_exceptions.md) -/

/-- R140, R141: the keypad skips use the low nibble of `V[x]`. -/
def Obligations.KeypadSkips : Prop :=
  ∀ (s : State) (x k : Reg), k.val = (s.reg x).toNat % 16 →
    decode (0xE#4 ++ nibOf x ++ 0x9E#8) = .ok (.skp x) ∧
    decode (0xE#4 ++ nibOf x ++ 0xA1#8) = .ok (.sknp x) ∧
    (∃ t, exec (.skp x) s = .next t ∧ OnlyPc s t ∧ t.pc = if s.pressed k = true then s.pc + 2#16 else s.pc) ∧
    (∃ t, exec (.sknp x) s = .next t ∧ OnlyPc s t ∧ t.pc = if s.pressed k = true then s.pc else s.pc + 2#16)

/-- R145: Fx0A takes the lowest pressed key at once, or enters the wait. -/
def Obligations.KeyLoadTakesLowestOrWaits : Prop :=
  ∀ (s : State) (x : Reg),
    decode (0xF#4 ++ nibOf x ++ 0x0A#8) = .ok (.ldVxK x) ∧
    (∀ k, s.pressed k = true → (∀ j, j < k → s.pressed j = false) →
      ∃ t, exec (.ldVxK x) s = .next t ∧ (t.reg x).toNat = k.val ∧ OnlyRegs s t [x]) ∧
    ((∀ k, s.pressed k = false) →
      ∃ t, exec (.ldVxK x) s = .next t ∧ t = { s with waiting := true, waitX := x } ∧ SameMemory s t)

/-- R142, R143, R144: the timer instructions; the tone is on exactly while ST > 0, so that writing 1 turns it on until the next
`Tick()`. -/
def Obligations.TimerInstructions : Prop :=
  ∀ (s : State) (x : Reg),
    decode (0xF#4 ++ nibOf x ++ 0x07#8) = .ok (.ldVxDt x) ∧
    decode (0xF#4 ++ nibOf x ++ 0x15#8) = .ok (.ldDtVx x) ∧
    decode (0xF#4 ++ nibOf x ++ 0x18#8) = .ok (.ldStVx x) ∧
    (∃ t, exec (.ldVxDt x) s = .next t ∧ t.reg x = s.dt ∧ OnlyRegs s t [x]) ∧
    (∃ t, exec (.ldDtVx x) s = .next t ∧ t = { s with dt := s.reg x } ∧ SameMemory s t) ∧
    (∃ t, exec (.ldStVx x) s = .next t ∧ t = { s with st := s.reg x } ∧ SameMemory s t ∧
      (soundActive t = true ↔ 0 < (s.reg x).toNat) ∧ (s.reg x = 0x01#8 → soundActive (tick t) = false))

/-- R160: `Tick()` always answers a next state, in which each timer is 1 less, floored at 0, and nothing else differs; and any number
of ticks one after another (a history, log entry 18) brings each timer down by that number. -/
def Obligations.TicksCountDownToZero : Prop :=
  (∀ s : State, perform .tick s = .next (tick s) ∧ (tick s).dt.toNat = s.dt.toNat - 1 ∧ (tick s).st.toNat = s.st.toNat - 1 ∧
    tick s = { s with dt := (tick s).dt, st := (tick s).st } ∧ SameMemory s (tick s)) ∧
  ∀ (k : Nat) (s : State),
    let t := history (List.replicate k .tick) s
    t.dt.toNat = s.dt.toNat - k ∧ t.st.toNat = s.st.toNat - k ∧ t = { s with dt := t.dt, st := t.st } ∧ SameMemory s t

/-- R165, R166: `SetKey` writes one flag; an index above 15 is refused; `AnyPressed()` is the lowest pressed key. -/
def Obligations.KeypadOperations : Prop :=
  ∀ (s : State) (b : Bool),
    (∀ k : Reg, ∃ t, perform (.setKey k.val b) s = .next t ∧ t.pressed k = b ∧ (∀ j, j ≠ k → t.pressed j = s.pressed j) ∧
      t = { s with key := t.key }) ∧
    (∀ index, 15 < index → perform (.setKey index b) s = .refused (.keyOutsideContract index)) ∧
    (anyPressed s = none ↔ ∀ k, s.pressed k = false) ∧
    (∀ k, anyPressed s = some k ↔ s.pressed k = true ∧ ∀ j, j < k → s.pressed j = false)

/-- R50, R172: `LoadProgram` writes exactly its bytes, or returns `OutOfSpace` with nothing changed. -/
def Obligations.LoadProgramWritesItsBytes : Prop :=
  ∀ (s : State) (bytes : List Byte) (origin : Nat),
    (origin + bytes.length ≤ 4096 →
      ∃ t, perform (.loadProgram bytes origin) s = .next t ∧ t = { s with mem := t.mem } ∧
        (∀ k, ∀ h : k < bytes.length, t.byteAt (origin + k) = bytes[k]) ∧ SameOutside s t origin bytes.length) ∧
    (4096 < origin + bytes.length → perform (.loadProgram bytes origin) s = .fault (.outOfSpace s))

/-- R30, R180: every piece of state after `Reset()`, from any state. -/
def Obligations.ResetState : Prop :=
  ∀ s : State, ∃ t, perform .reset s = .next t ∧
    (∀ r, t.reg r = 0x00#8) ∧ t.idx = 0x0000#16 ∧ t.pc = s.cfg.programOrigin ∧ t.sp = 0x00#8 ∧ (∀ k, t.slot k = 0x0000#16) ∧
    t.dt = 0x00#8 ∧ t.st = 0x00#8 ∧ (∀ y x, t.display.pixel y x = false) ∧ (∀ k, t.pressed k = false) ∧
    t.waiting = false ∧ t.waitX = 0 ∧ t.cfg = s.cfg ∧
    (∀ k < 80, t.byteAt (s.cfg.fontBase.val + k) = font.getD k 0x00#8) ∧
    (∀ a, a < s.cfg.fontBase.val ∨ s.cfg.fontBase.val + 80 ≤ a → t.byteAt a = 0x00#8)

/-- R163, R167: the two pure reads. -/
def Obligations.PureReads : Prop :=
  ∀ s : State, perform .snapshot s = .next s ∧ snapshot s = s.display ∧ perform .soundActive s = .next s ∧
    (soundActive s = true ↔ 0 < s.st.toNat)

/-- R182: with no program loaded the first step raises UnknownOpcode(0x0000), PC past the word. That `State.reset` has R5's
default parameters, FAULT_POLICY halt among them, is the model's (log entry 3). -/
def Obligations.NoProgramFaults : Prop :=
  step State.reset = .fault (.unknownOpcode 0x0000#16 { State.reset with pc := 0x202#16 })
end

