-- ==== Sys2Proof/Laws/Decode.lean ====
section
/-! SUPPORT. The fields of a word put together from fields, and a word put together from its fields (30_encoding.md R60, R61). -/

namespace Sys2Proof

@[simp] theorem regOf_nibOf (x : Reg) : regOf (nibOf x) = x := rfl

@[simp] theorem nibOf_regOf (b : Nibble) : nibOf (regOf b) = b := rfl

/-- R61: what each field of a word is as a number. -/
theorem Fields.toNat_ofWord (w : Opcode) :
    (Fields.ofWord w).family.toNat = w.toNat / 4096 % 16 ∧ (Fields.ofWord w).x.toNat = w.toNat / 256 % 16 ∧
      (Fields.ofWord w).y.toNat = w.toNat / 16 % 16 ∧ (Fields.ofWord w).n.toNat = w.toNat % 16 ∧
      (Fields.ofWord w).nn.toNat = w.toNat % 256 ∧ (Fields.ofWord w).nnn.toNat = w.toNat % 4096 := by
  simp [Fields.ofWord, BitVec.extractLsb'_toNat, Nat.shiftRight_eq_div_pow]

theorem toNat_append (n m : Nat) (a : BitVec n) (b : BitVec m) : (a ++ b).toNat = a.toNat * 2 ^ m + b.toNat := by
  rw [BitVec.toNat_append, ← Nat.shiftLeft_add_eq_or_of_lt b.isLt, Nat.shiftLeft_eq]

/-- The fields of a word in format NNN. -/
theorem Fields.ofWord_nnn (f : Nibble) (nnn : Addr12) :
    (Fields.ofWord (f ++ nnn)).family = f ∧ (Fields.ofWord (f ++ nnn)).nnn = nnn := by
  obtain ⟨h1, -, -, -, -, h6⟩ := Fields.toNat_ofWord (f ++ nnn)
  rw [toNat_append] at h1 h6
  have := f.isLt; have := nnn.isLt
  exact ⟨BitVec.eq_of_toNat_eq (by omega), BitVec.eq_of_toNat_eq (by omega)⟩

/-- The fields of a word in formats XNN and X. -/
theorem Fields.ofWord_xnn (f x : Nibble) (nn : Byte) :
    (Fields.ofWord (f ++ x ++ nn)).family = f ∧ (Fields.ofWord (f ++ x ++ nn)).x = x ∧ (Fields.ofWord (f ++ x ++ nn)).nn = nn := by
  obtain ⟨h1, h2, -, -, h5, -⟩ := Fields.toNat_ofWord (f ++ x ++ nn)
  rw [toNat_append, toNat_append] at h1 h2 h5
  have := f.isLt; have := x.isLt; have := nn.isLt
  exact ⟨BitVec.eq_of_toNat_eq (by omega), BitVec.eq_of_toNat_eq (by omega), BitVec.eq_of_toNat_eq (by omega)⟩

/-- The fields of a word in formats XY and XYN. -/
theorem Fields.ofWord_xyn (f x y n : Nibble) :
    (Fields.ofWord (f ++ x ++ y ++ n)).family = f ∧ (Fields.ofWord (f ++ x ++ y ++ n)).x = x ∧
      (Fields.ofWord (f ++ x ++ y ++ n)).y = y ∧ (Fields.ofWord (f ++ x ++ y ++ n)).n = n := by
  obtain ⟨h1, h2, h3, h4, -, -⟩ := Fields.toNat_ofWord (f ++ x ++ y ++ n)
  rw [toNat_append, toNat_append, toNat_append] at h1 h2 h3 h4
  have := f.isLt; have := x.isLt; have := y.isLt; have := n.isLt
  exact ⟨BitVec.eq_of_toNat_eq (by omega), BitVec.eq_of_toNat_eq (by omega), BitVec.eq_of_toNat_eq (by omega),
    BitVec.eq_of_toNat_eq (by omega)⟩

/-- A word is its family and `nnn`. -/
theorem Fields.nnn_append (w : Opcode) : (Fields.ofWord w).family ++ (Fields.ofWord w).nnn = w := by
  obtain ⟨h1, -, -, -, -, h6⟩ := Fields.toNat_ofWord w
  apply BitVec.eq_of_toNat_eq
  rw [toNat_append]
  have := w.isLt
  omega

/-- A word is its family, `x` and `nn`. -/
theorem Fields.xnn_append (w : Opcode) : (Fields.ofWord w).family ++ (Fields.ofWord w).x ++ (Fields.ofWord w).nn = w := by
  obtain ⟨h1, h2, -, -, h5, -⟩ := Fields.toNat_ofWord w
  apply BitVec.eq_of_toNat_eq
  rw [toNat_append, toNat_append]
  have := w.isLt
  omega

/-- A word is its family, `x`, `y` and `n`. -/
theorem Fields.xyn_append (w : Opcode) :
    (Fields.ofWord w).family ++ (Fields.ofWord w).x ++ (Fields.ofWord w).y ++ (Fields.ofWord w).n = w := by
  obtain ⟨h1, h2, h3, h4, -, -⟩ := Fields.toNat_ofWord w
  apply BitVec.eq_of_toNat_eq
  rw [toNat_append, toNat_append, toNat_append]
  have := w.isLt
  omega

end Sys2Proof
end

