-- ==== Sys2Proof/Laws/State.lean ====
section
/-! SUPPORT. For each update of the state, what each field is afterwards (all true by definition), and that the reads of other
components do not see it. -/

namespace Sys2Proof.Machine


/-! ### setReg -/

@[simp] theorem State.setReg_v (s : State) (i : Reg) (b : Byte) : (s.setReg i b).v = s.v.set i.val b := rfl
@[simp] theorem State.setReg_idx (s : State) (i : Reg) (b : Byte) : (s.setReg i b).idx = s.idx := rfl
@[simp] theorem State.setReg_pc (s : State) (i : Reg) (b : Byte) : (s.setReg i b).pc = s.pc := rfl
@[simp] theorem State.setReg_sp (s : State) (i : Reg) (b : Byte) : (s.setReg i b).sp = s.sp := rfl
@[simp] theorem State.setReg_stack (s : State) (i : Reg) (b : Byte) : (s.setReg i b).stack = s.stack := rfl
@[simp] theorem State.setReg_dt (s : State) (i : Reg) (b : Byte) : (s.setReg i b).dt = s.dt := rfl
@[simp] theorem State.setReg_st (s : State) (i : Reg) (b : Byte) : (s.setReg i b).st = s.st := rfl
@[simp] theorem State.setReg_mem (s : State) (i : Reg) (b : Byte) : (s.setReg i b).mem = s.mem := rfl
@[simp] theorem State.setReg_display (s : State) (i : Reg) (b : Byte) : (s.setReg i b).display = s.display := rfl
@[simp] theorem State.setReg_key (s : State) (i : Reg) (b : Byte) : (s.setReg i b).key = s.key := rfl
@[simp] theorem State.setReg_waiting (s : State) (i : Reg) (b : Byte) : (s.setReg i b).waiting = s.waiting := rfl
@[simp] theorem State.setReg_waitX (s : State) (i : Reg) (b : Byte) : (s.setReg i b).waitX = s.waitX := rfl
@[simp] theorem State.setReg_cfg (s : State) (i : Reg) (b : Byte) : (s.setReg i b).cfg = s.cfg := rfl
@[simp] theorem State.setReg_draws (s : State) (i : Reg) (b : Byte) : (s.setReg i b).draws = s.draws := rfl
@[simp] theorem State.setReg_byteAt (s : State) (i : Reg) (b : Byte) (c : Nat) : (s.setReg i b).byteAt c = s.byteAt c := rfl
@[simp] theorem State.setReg_slot (s : State) (i : Reg) (b : Byte) (j : Fin 16) : (s.setReg i b).slot j = s.slot j := rfl
@[simp] theorem State.setReg_pressed (s : State) (i : Reg) (b : Byte) (q : Reg) : (s.setReg i b).pressed q = s.pressed q := rfl

/-! ### setIdx -/

@[simp] theorem State.setIdx_v (s : State) (w : Word) : (s.setIdx w).v = s.v := rfl
@[simp] theorem State.setIdx_idx (s : State) (w : Word) : (s.setIdx w).idx = w := rfl
@[simp] theorem State.setIdx_pc (s : State) (w : Word) : (s.setIdx w).pc = s.pc := rfl
@[simp] theorem State.setIdx_sp (s : State) (w : Word) : (s.setIdx w).sp = s.sp := rfl
@[simp] theorem State.setIdx_stack (s : State) (w : Word) : (s.setIdx w).stack = s.stack := rfl
@[simp] theorem State.setIdx_dt (s : State) (w : Word) : (s.setIdx w).dt = s.dt := rfl
@[simp] theorem State.setIdx_st (s : State) (w : Word) : (s.setIdx w).st = s.st := rfl
@[simp] theorem State.setIdx_mem (s : State) (w : Word) : (s.setIdx w).mem = s.mem := rfl
@[simp] theorem State.setIdx_display (s : State) (w : Word) : (s.setIdx w).display = s.display := rfl
@[simp] theorem State.setIdx_key (s : State) (w : Word) : (s.setIdx w).key = s.key := rfl
@[simp] theorem State.setIdx_waiting (s : State) (w : Word) : (s.setIdx w).waiting = s.waiting := rfl
@[simp] theorem State.setIdx_waitX (s : State) (w : Word) : (s.setIdx w).waitX = s.waitX := rfl
@[simp] theorem State.setIdx_cfg (s : State) (w : Word) : (s.setIdx w).cfg = s.cfg := rfl
@[simp] theorem State.setIdx_draws (s : State) (w : Word) : (s.setIdx w).draws = s.draws := rfl
@[simp] theorem State.setIdx_reg (s : State) (w : Word) (r : Reg) : (s.setIdx w).reg r = s.reg r := rfl
@[simp] theorem State.setIdx_byteAt (s : State) (w : Word) (c : Nat) : (s.setIdx w).byteAt c = s.byteAt c := rfl
@[simp] theorem State.setIdx_slot (s : State) (w : Word) (j : Fin 16) : (s.setIdx w).slot j = s.slot j := rfl
@[simp] theorem State.setIdx_pressed (s : State) (w : Word) (q : Reg) : (s.setIdx w).pressed q = s.pressed q := rfl

/-! ### setPc -/

@[simp] theorem State.setPc_v (s : State) (w : Word) : (s.setPc w).v = s.v := rfl
@[simp] theorem State.setPc_idx (s : State) (w : Word) : (s.setPc w).idx = s.idx := rfl
@[simp] theorem State.setPc_pc (s : State) (w : Word) : (s.setPc w).pc = w := rfl
@[simp] theorem State.setPc_sp (s : State) (w : Word) : (s.setPc w).sp = s.sp := rfl
@[simp] theorem State.setPc_stack (s : State) (w : Word) : (s.setPc w).stack = s.stack := rfl
@[simp] theorem State.setPc_dt (s : State) (w : Word) : (s.setPc w).dt = s.dt := rfl
@[simp] theorem State.setPc_st (s : State) (w : Word) : (s.setPc w).st = s.st := rfl
@[simp] theorem State.setPc_mem (s : State) (w : Word) : (s.setPc w).mem = s.mem := rfl
@[simp] theorem State.setPc_display (s : State) (w : Word) : (s.setPc w).display = s.display := rfl
@[simp] theorem State.setPc_key (s : State) (w : Word) : (s.setPc w).key = s.key := rfl
@[simp] theorem State.setPc_waiting (s : State) (w : Word) : (s.setPc w).waiting = s.waiting := rfl
@[simp] theorem State.setPc_waitX (s : State) (w : Word) : (s.setPc w).waitX = s.waitX := rfl
@[simp] theorem State.setPc_cfg (s : State) (w : Word) : (s.setPc w).cfg = s.cfg := rfl
@[simp] theorem State.setPc_draws (s : State) (w : Word) : (s.setPc w).draws = s.draws := rfl
@[simp] theorem State.setPc_reg (s : State) (w : Word) (r : Reg) : (s.setPc w).reg r = s.reg r := rfl
@[simp] theorem State.setPc_byteAt (s : State) (w : Word) (c : Nat) : (s.setPc w).byteAt c = s.byteAt c := rfl
@[simp] theorem State.setPc_slot (s : State) (w : Word) (j : Fin 16) : (s.setPc w).slot j = s.slot j := rfl
@[simp] theorem State.setPc_pressed (s : State) (w : Word) (q : Reg) : (s.setPc w).pressed q = s.pressed q := rfl

/-! ### advance -/

@[simp] theorem State.advance_v (s : State) : (s.advance).v = s.v := rfl
@[simp] theorem State.advance_idx (s : State) : (s.advance).idx = s.idx := rfl
@[simp] theorem State.advance_pc (s : State) : (s.advance).pc = s.pc + 2#16 := rfl
@[simp] theorem State.advance_sp (s : State) : (s.advance).sp = s.sp := rfl
@[simp] theorem State.advance_stack (s : State) : (s.advance).stack = s.stack := rfl
@[simp] theorem State.advance_dt (s : State) : (s.advance).dt = s.dt := rfl
@[simp] theorem State.advance_st (s : State) : (s.advance).st = s.st := rfl
@[simp] theorem State.advance_mem (s : State) : (s.advance).mem = s.mem := rfl
@[simp] theorem State.advance_display (s : State) : (s.advance).display = s.display := rfl
@[simp] theorem State.advance_key (s : State) : (s.advance).key = s.key := rfl
@[simp] theorem State.advance_waiting (s : State) : (s.advance).waiting = s.waiting := rfl
@[simp] theorem State.advance_waitX (s : State) : (s.advance).waitX = s.waitX := rfl
@[simp] theorem State.advance_cfg (s : State) : (s.advance).cfg = s.cfg := rfl
@[simp] theorem State.advance_draws (s : State) : (s.advance).draws = s.draws := rfl
@[simp] theorem State.advance_reg (s : State) (r : Reg) : (s.advance).reg r = s.reg r := rfl
@[simp] theorem State.advance_byteAt (s : State) (c : Nat) : (s.advance).byteAt c = s.byteAt c := rfl
@[simp] theorem State.advance_slot (s : State) (j : Fin 16) : (s.advance).slot j = s.slot j := rfl
@[simp] theorem State.advance_pressed (s : State) (q : Reg) : (s.advance).pressed q = s.pressed q := rfl

/-! ### setDt -/

@[simp] theorem State.setDt_v (s : State) (b : Byte) : (s.setDt b).v = s.v := rfl
@[simp] theorem State.setDt_idx (s : State) (b : Byte) : (s.setDt b).idx = s.idx := rfl
@[simp] theorem State.setDt_pc (s : State) (b : Byte) : (s.setDt b).pc = s.pc := rfl
@[simp] theorem State.setDt_sp (s : State) (b : Byte) : (s.setDt b).sp = s.sp := rfl
@[simp] theorem State.setDt_stack (s : State) (b : Byte) : (s.setDt b).stack = s.stack := rfl
@[simp] theorem State.setDt_dt (s : State) (b : Byte) : (s.setDt b).dt = b := rfl
@[simp] theorem State.setDt_st (s : State) (b : Byte) : (s.setDt b).st = s.st := rfl
@[simp] theorem State.setDt_mem (s : State) (b : Byte) : (s.setDt b).mem = s.mem := rfl
@[simp] theorem State.setDt_display (s : State) (b : Byte) : (s.setDt b).display = s.display := rfl
@[simp] theorem State.setDt_key (s : State) (b : Byte) : (s.setDt b).key = s.key := rfl
@[simp] theorem State.setDt_waiting (s : State) (b : Byte) : (s.setDt b).waiting = s.waiting := rfl
@[simp] theorem State.setDt_waitX (s : State) (b : Byte) : (s.setDt b).waitX = s.waitX := rfl
@[simp] theorem State.setDt_cfg (s : State) (b : Byte) : (s.setDt b).cfg = s.cfg := rfl
@[simp] theorem State.setDt_draws (s : State) (b : Byte) : (s.setDt b).draws = s.draws := rfl
@[simp] theorem State.setDt_reg (s : State) (b : Byte) (r : Reg) : (s.setDt b).reg r = s.reg r := rfl
@[simp] theorem State.setDt_byteAt (s : State) (b : Byte) (c : Nat) : (s.setDt b).byteAt c = s.byteAt c := rfl
@[simp] theorem State.setDt_slot (s : State) (b : Byte) (j : Fin 16) : (s.setDt b).slot j = s.slot j := rfl
@[simp] theorem State.setDt_pressed (s : State) (b : Byte) (q : Reg) : (s.setDt b).pressed q = s.pressed q := rfl

/-! ### setSt -/

@[simp] theorem State.setSt_v (s : State) (b : Byte) : (s.setSt b).v = s.v := rfl
@[simp] theorem State.setSt_idx (s : State) (b : Byte) : (s.setSt b).idx = s.idx := rfl
@[simp] theorem State.setSt_pc (s : State) (b : Byte) : (s.setSt b).pc = s.pc := rfl
@[simp] theorem State.setSt_sp (s : State) (b : Byte) : (s.setSt b).sp = s.sp := rfl
@[simp] theorem State.setSt_stack (s : State) (b : Byte) : (s.setSt b).stack = s.stack := rfl
@[simp] theorem State.setSt_dt (s : State) (b : Byte) : (s.setSt b).dt = s.dt := rfl
@[simp] theorem State.setSt_st (s : State) (b : Byte) : (s.setSt b).st = b := rfl
@[simp] theorem State.setSt_mem (s : State) (b : Byte) : (s.setSt b).mem = s.mem := rfl
@[simp] theorem State.setSt_display (s : State) (b : Byte) : (s.setSt b).display = s.display := rfl
@[simp] theorem State.setSt_key (s : State) (b : Byte) : (s.setSt b).key = s.key := rfl
@[simp] theorem State.setSt_waiting (s : State) (b : Byte) : (s.setSt b).waiting = s.waiting := rfl
@[simp] theorem State.setSt_waitX (s : State) (b : Byte) : (s.setSt b).waitX = s.waitX := rfl
@[simp] theorem State.setSt_cfg (s : State) (b : Byte) : (s.setSt b).cfg = s.cfg := rfl
@[simp] theorem State.setSt_draws (s : State) (b : Byte) : (s.setSt b).draws = s.draws := rfl
@[simp] theorem State.setSt_reg (s : State) (b : Byte) (r : Reg) : (s.setSt b).reg r = s.reg r := rfl
@[simp] theorem State.setSt_byteAt (s : State) (b : Byte) (c : Nat) : (s.setSt b).byteAt c = s.byteAt c := rfl
@[simp] theorem State.setSt_slot (s : State) (b : Byte) (j : Fin 16) : (s.setSt b).slot j = s.slot j := rfl
@[simp] theorem State.setSt_pressed (s : State) (b : Byte) (q : Reg) : (s.setSt b).pressed q = s.pressed q := rfl

/-! ### startWait -/

@[simp] theorem State.startWait_v (s : State) (x : Reg) : (s.startWait x).v = s.v := rfl
@[simp] theorem State.startWait_idx (s : State) (x : Reg) : (s.startWait x).idx = s.idx := rfl
@[simp] theorem State.startWait_pc (s : State) (x : Reg) : (s.startWait x).pc = s.pc := rfl
@[simp] theorem State.startWait_sp (s : State) (x : Reg) : (s.startWait x).sp = s.sp := rfl
@[simp] theorem State.startWait_stack (s : State) (x : Reg) : (s.startWait x).stack = s.stack := rfl
@[simp] theorem State.startWait_dt (s : State) (x : Reg) : (s.startWait x).dt = s.dt := rfl
@[simp] theorem State.startWait_st (s : State) (x : Reg) : (s.startWait x).st = s.st := rfl
@[simp] theorem State.startWait_mem (s : State) (x : Reg) : (s.startWait x).mem = s.mem := rfl
@[simp] theorem State.startWait_display (s : State) (x : Reg) : (s.startWait x).display = s.display := rfl
@[simp] theorem State.startWait_key (s : State) (x : Reg) : (s.startWait x).key = s.key := rfl
@[simp] theorem State.startWait_waiting (s : State) (x : Reg) : (s.startWait x).waiting = true := rfl
@[simp] theorem State.startWait_waitX (s : State) (x : Reg) : (s.startWait x).waitX = x := rfl
@[simp] theorem State.startWait_cfg (s : State) (x : Reg) : (s.startWait x).cfg = s.cfg := rfl
@[simp] theorem State.startWait_draws (s : State) (x : Reg) : (s.startWait x).draws = s.draws := rfl
@[simp] theorem State.startWait_reg (s : State) (x : Reg) (r : Reg) : (s.startWait x).reg r = s.reg r := rfl
@[simp] theorem State.startWait_byteAt (s : State) (x : Reg) (c : Nat) : (s.startWait x).byteAt c = s.byteAt c := rfl
@[simp] theorem State.startWait_slot (s : State) (x : Reg) (j : Fin 16) : (s.startWait x).slot j = s.slot j := rfl
@[simp] theorem State.startWait_pressed (s : State) (x : Reg) (q : Reg) : (s.startWait x).pressed q = s.pressed q := rfl

/-! ### endWait -/

@[simp] theorem State.endWait_v (s : State) : (s.endWait).v = s.v := rfl
@[simp] theorem State.endWait_idx (s : State) : (s.endWait).idx = s.idx := rfl
@[simp] theorem State.endWait_pc (s : State) : (s.endWait).pc = s.pc := rfl
@[simp] theorem State.endWait_sp (s : State) : (s.endWait).sp = s.sp := rfl
@[simp] theorem State.endWait_stack (s : State) : (s.endWait).stack = s.stack := rfl
@[simp] theorem State.endWait_dt (s : State) : (s.endWait).dt = s.dt := rfl
@[simp] theorem State.endWait_st (s : State) : (s.endWait).st = s.st := rfl
@[simp] theorem State.endWait_mem (s : State) : (s.endWait).mem = s.mem := rfl
@[simp] theorem State.endWait_display (s : State) : (s.endWait).display = s.display := rfl
@[simp] theorem State.endWait_key (s : State) : (s.endWait).key = s.key := rfl
@[simp] theorem State.endWait_waiting (s : State) : (s.endWait).waiting = false := rfl
@[simp] theorem State.endWait_waitX (s : State) : (s.endWait).waitX = s.waitX := rfl
@[simp] theorem State.endWait_cfg (s : State) : (s.endWait).cfg = s.cfg := rfl
@[simp] theorem State.endWait_draws (s : State) : (s.endWait).draws = s.draws := rfl
@[simp] theorem State.endWait_reg (s : State) (r : Reg) : (s.endWait).reg r = s.reg r := rfl
@[simp] theorem State.endWait_byteAt (s : State) (c : Nat) : (s.endWait).byteAt c = s.byteAt c := rfl
@[simp] theorem State.endWait_slot (s : State) (j : Fin 16) : (s.endWait).slot j = s.slot j := rfl
@[simp] theorem State.endWait_pressed (s : State) (q : Reg) : (s.endWait).pressed q = s.pressed q := rfl

/-! ### takeDraw -/

@[simp] theorem State.takeDraw_v (s : State) : (s.takeDraw).v = s.v := rfl
@[simp] theorem State.takeDraw_idx (s : State) : (s.takeDraw).idx = s.idx := rfl
@[simp] theorem State.takeDraw_pc (s : State) : (s.takeDraw).pc = s.pc := rfl
@[simp] theorem State.takeDraw_sp (s : State) : (s.takeDraw).sp = s.sp := rfl
@[simp] theorem State.takeDraw_stack (s : State) : (s.takeDraw).stack = s.stack := rfl
@[simp] theorem State.takeDraw_dt (s : State) : (s.takeDraw).dt = s.dt := rfl
@[simp] theorem State.takeDraw_st (s : State) : (s.takeDraw).st = s.st := rfl
@[simp] theorem State.takeDraw_mem (s : State) : (s.takeDraw).mem = s.mem := rfl
@[simp] theorem State.takeDraw_display (s : State) : (s.takeDraw).display = s.display := rfl
@[simp] theorem State.takeDraw_key (s : State) : (s.takeDraw).key = s.key := rfl
@[simp] theorem State.takeDraw_waiting (s : State) : (s.takeDraw).waiting = s.waiting := rfl
@[simp] theorem State.takeDraw_waitX (s : State) : (s.takeDraw).waitX = s.waitX := rfl
@[simp] theorem State.takeDraw_cfg (s : State) : (s.takeDraw).cfg = s.cfg := rfl
@[simp] theorem State.takeDraw_draws (s : State) : (s.takeDraw).draws = s.draws + 1 := rfl
@[simp] theorem State.takeDraw_reg (s : State) (r : Reg) : (s.takeDraw).reg r = s.reg r := rfl
@[simp] theorem State.takeDraw_byteAt (s : State) (c : Nat) : (s.takeDraw).byteAt c = s.byteAt c := rfl
@[simp] theorem State.takeDraw_slot (s : State) (j : Fin 16) : (s.takeDraw).slot j = s.slot j := rfl
@[simp] theorem State.takeDraw_pressed (s : State) (q : Reg) : (s.takeDraw).pressed q = s.pressed q := rfl

/-! ### setByte -/

@[simp] theorem State.setByte_v (s : State) (a : Nat) (b : Byte) : (s.setByte a b).v = s.v := rfl
@[simp] theorem State.setByte_idx (s : State) (a : Nat) (b : Byte) : (s.setByte a b).idx = s.idx := rfl
@[simp] theorem State.setByte_pc (s : State) (a : Nat) (b : Byte) : (s.setByte a b).pc = s.pc := rfl
@[simp] theorem State.setByte_sp (s : State) (a : Nat) (b : Byte) : (s.setByte a b).sp = s.sp := rfl
@[simp] theorem State.setByte_stack (s : State) (a : Nat) (b : Byte) : (s.setByte a b).stack = s.stack := rfl
@[simp] theorem State.setByte_dt (s : State) (a : Nat) (b : Byte) : (s.setByte a b).dt = s.dt := rfl
@[simp] theorem State.setByte_st (s : State) (a : Nat) (b : Byte) : (s.setByte a b).st = s.st := rfl
@[simp] theorem State.setByte_mem (s : State) (a : Nat) (b : Byte) : (s.setByte a b).mem = Memory.write s.cfg.fontBase.val s.mem a b := rfl
@[simp] theorem State.setByte_display (s : State) (a : Nat) (b : Byte) : (s.setByte a b).display = s.display := rfl
@[simp] theorem State.setByte_key (s : State) (a : Nat) (b : Byte) : (s.setByte a b).key = s.key := rfl
@[simp] theorem State.setByte_waiting (s : State) (a : Nat) (b : Byte) : (s.setByte a b).waiting = s.waiting := rfl
@[simp] theorem State.setByte_waitX (s : State) (a : Nat) (b : Byte) : (s.setByte a b).waitX = s.waitX := rfl
@[simp] theorem State.setByte_cfg (s : State) (a : Nat) (b : Byte) : (s.setByte a b).cfg = s.cfg := rfl
@[simp] theorem State.setByte_draws (s : State) (a : Nat) (b : Byte) : (s.setByte a b).draws = s.draws := rfl
@[simp] theorem State.setByte_reg (s : State) (a : Nat) (b : Byte) (r : Reg) : (s.setByte a b).reg r = s.reg r := rfl
@[simp] theorem State.setByte_slot (s : State) (a : Nat) (b : Byte) (j : Fin 16) : (s.setByte a b).slot j = s.slot j := rfl
@[simp] theorem State.setByte_pressed (s : State) (a : Nat) (b : Byte) (q : Reg) : (s.setByte a b).pressed q = s.pressed q := rfl

/-! ### setStack -/

@[simp] theorem State.setStack_v (s : State) (i : Fin 16) (w : Word) (n : Byte) : (s.setStack i w n).v = s.v := rfl
@[simp] theorem State.setStack_idx (s : State) (i : Fin 16) (w : Word) (n : Byte) : (s.setStack i w n).idx = s.idx := rfl
@[simp] theorem State.setStack_pc (s : State) (i : Fin 16) (w : Word) (n : Byte) : (s.setStack i w n).pc = s.pc := rfl
@[simp] theorem State.setStack_sp (s : State) (i : Fin 16) (w : Word) (n : Byte) : (s.setStack i w n).sp = n := rfl
@[simp] theorem State.setStack_stack (s : State) (i : Fin 16) (w : Word) (n : Byte) : (s.setStack i w n).stack = s.stack.set i.val w := rfl
@[simp] theorem State.setStack_dt (s : State) (i : Fin 16) (w : Word) (n : Byte) : (s.setStack i w n).dt = s.dt := rfl
@[simp] theorem State.setStack_st (s : State) (i : Fin 16) (w : Word) (n : Byte) : (s.setStack i w n).st = s.st := rfl
@[simp] theorem State.setStack_mem (s : State) (i : Fin 16) (w : Word) (n : Byte) : (s.setStack i w n).mem = s.mem := rfl
@[simp] theorem State.setStack_display (s : State) (i : Fin 16) (w : Word) (n : Byte) : (s.setStack i w n).display = s.display := rfl
@[simp] theorem State.setStack_key (s : State) (i : Fin 16) (w : Word) (n : Byte) : (s.setStack i w n).key = s.key := rfl
@[simp] theorem State.setStack_waiting (s : State) (i : Fin 16) (w : Word) (n : Byte) : (s.setStack i w n).waiting = s.waiting := rfl
@[simp] theorem State.setStack_waitX (s : State) (i : Fin 16) (w : Word) (n : Byte) : (s.setStack i w n).waitX = s.waitX := rfl
@[simp] theorem State.setStack_cfg (s : State) (i : Fin 16) (w : Word) (n : Byte) : (s.setStack i w n).cfg = s.cfg := rfl
@[simp] theorem State.setStack_draws (s : State) (i : Fin 16) (w : Word) (n : Byte) : (s.setStack i w n).draws = s.draws := rfl
@[simp] theorem State.setStack_reg (s : State) (i : Fin 16) (w : Word) (n : Byte) (r : Reg) : (s.setStack i w n).reg r = s.reg r := rfl
@[simp] theorem State.setStack_byteAt (s : State) (i : Fin 16) (w : Word) (n : Byte) (c : Nat) : (s.setStack i w n).byteAt c = s.byteAt c := rfl
@[simp] theorem State.setStack_pressed (s : State) (i : Fin 16) (w : Word) (n : Byte) (q : Reg) : (s.setStack i w n).pressed q = s.pressed q := rfl

/-! ### setSp -/

@[simp] theorem State.setSp_v (s : State) (n : Byte) : (s.setSp n).v = s.v := rfl
@[simp] theorem State.setSp_idx (s : State) (n : Byte) : (s.setSp n).idx = s.idx := rfl
@[simp] theorem State.setSp_pc (s : State) (n : Byte) : (s.setSp n).pc = s.pc := rfl
@[simp] theorem State.setSp_sp (s : State) (n : Byte) : (s.setSp n).sp = n := rfl
@[simp] theorem State.setSp_stack (s : State) (n : Byte) : (s.setSp n).stack = s.stack := rfl
@[simp] theorem State.setSp_dt (s : State) (n : Byte) : (s.setSp n).dt = s.dt := rfl
@[simp] theorem State.setSp_st (s : State) (n : Byte) : (s.setSp n).st = s.st := rfl
@[simp] theorem State.setSp_mem (s : State) (n : Byte) : (s.setSp n).mem = s.mem := rfl
@[simp] theorem State.setSp_display (s : State) (n : Byte) : (s.setSp n).display = s.display := rfl
@[simp] theorem State.setSp_key (s : State) (n : Byte) : (s.setSp n).key = s.key := rfl
@[simp] theorem State.setSp_waiting (s : State) (n : Byte) : (s.setSp n).waiting = s.waiting := rfl
@[simp] theorem State.setSp_waitX (s : State) (n : Byte) : (s.setSp n).waitX = s.waitX := rfl
@[simp] theorem State.setSp_cfg (s : State) (n : Byte) : (s.setSp n).cfg = s.cfg := rfl
@[simp] theorem State.setSp_draws (s : State) (n : Byte) : (s.setSp n).draws = s.draws := rfl
@[simp] theorem State.setSp_reg (s : State) (n : Byte) (r : Reg) : (s.setSp n).reg r = s.reg r := rfl
@[simp] theorem State.setSp_byteAt (s : State) (n : Byte) (c : Nat) : (s.setSp n).byteAt c = s.byteAt c := rfl
@[simp] theorem State.setSp_slot (s : State) (n : Byte) (j : Fin 16) : (s.setSp n).slot j = s.slot j := rfl
@[simp] theorem State.setSp_pressed (s : State) (n : Byte) (q : Reg) : (s.setSp n).pressed q = s.pressed q := rfl

/-! ### setDisplay -/

@[simp] theorem State.setDisplay_v (s : State) (d : Display) : (s.setDisplay d).v = s.v := rfl
@[simp] theorem State.setDisplay_idx (s : State) (d : Display) : (s.setDisplay d).idx = s.idx := rfl
@[simp] theorem State.setDisplay_pc (s : State) (d : Display) : (s.setDisplay d).pc = s.pc := rfl
@[simp] theorem State.setDisplay_sp (s : State) (d : Display) : (s.setDisplay d).sp = s.sp := rfl
@[simp] theorem State.setDisplay_stack (s : State) (d : Display) : (s.setDisplay d).stack = s.stack := rfl
@[simp] theorem State.setDisplay_dt (s : State) (d : Display) : (s.setDisplay d).dt = s.dt := rfl
@[simp] theorem State.setDisplay_st (s : State) (d : Display) : (s.setDisplay d).st = s.st := rfl
@[simp] theorem State.setDisplay_mem (s : State) (d : Display) : (s.setDisplay d).mem = s.mem := rfl
@[simp] theorem State.setDisplay_display (s : State) (d : Display) : (s.setDisplay d).display = d := rfl
@[simp] theorem State.setDisplay_key (s : State) (d : Display) : (s.setDisplay d).key = s.key := rfl
@[simp] theorem State.setDisplay_waiting (s : State) (d : Display) : (s.setDisplay d).waiting = s.waiting := rfl
@[simp] theorem State.setDisplay_waitX (s : State) (d : Display) : (s.setDisplay d).waitX = s.waitX := rfl
@[simp] theorem State.setDisplay_cfg (s : State) (d : Display) : (s.setDisplay d).cfg = s.cfg := rfl
@[simp] theorem State.setDisplay_draws (s : State) (d : Display) : (s.setDisplay d).draws = s.draws := rfl
@[simp] theorem State.setDisplay_reg (s : State) (d : Display) (r : Reg) : (s.setDisplay d).reg r = s.reg r := rfl
@[simp] theorem State.setDisplay_byteAt (s : State) (d : Display) (c : Nat) : (s.setDisplay d).byteAt c = s.byteAt c := rfl
@[simp] theorem State.setDisplay_slot (s : State) (d : Display) (j : Fin 16) : (s.setDisplay d).slot j = s.slot j := rfl
@[simp] theorem State.setDisplay_pressed (s : State) (d : Display) (q : Reg) : (s.setDisplay d).pressed q = s.pressed q := rfl

/-! ### setKeyFlag -/

@[simp] theorem State.setKeyFlag_v (s : State) (k : Reg) (b : Bool) : (s.setKeyFlag k b).v = s.v := rfl
@[simp] theorem State.setKeyFlag_idx (s : State) (k : Reg) (b : Bool) : (s.setKeyFlag k b).idx = s.idx := rfl
@[simp] theorem State.setKeyFlag_pc (s : State) (k : Reg) (b : Bool) : (s.setKeyFlag k b).pc = s.pc := rfl
@[simp] theorem State.setKeyFlag_sp (s : State) (k : Reg) (b : Bool) : (s.setKeyFlag k b).sp = s.sp := rfl
@[simp] theorem State.setKeyFlag_stack (s : State) (k : Reg) (b : Bool) : (s.setKeyFlag k b).stack = s.stack := rfl
@[simp] theorem State.setKeyFlag_dt (s : State) (k : Reg) (b : Bool) : (s.setKeyFlag k b).dt = s.dt := rfl
@[simp] theorem State.setKeyFlag_st (s : State) (k : Reg) (b : Bool) : (s.setKeyFlag k b).st = s.st := rfl
@[simp] theorem State.setKeyFlag_mem (s : State) (k : Reg) (b : Bool) : (s.setKeyFlag k b).mem = s.mem := rfl
@[simp] theorem State.setKeyFlag_display (s : State) (k : Reg) (b : Bool) : (s.setKeyFlag k b).display = s.display := rfl
@[simp] theorem State.setKeyFlag_key (s : State) (k : Reg) (b : Bool) : (s.setKeyFlag k b).key = s.key.set k.val b := rfl
@[simp] theorem State.setKeyFlag_waiting (s : State) (k : Reg) (b : Bool) : (s.setKeyFlag k b).waiting = s.waiting := rfl
@[simp] theorem State.setKeyFlag_waitX (s : State) (k : Reg) (b : Bool) : (s.setKeyFlag k b).waitX = s.waitX := rfl
@[simp] theorem State.setKeyFlag_cfg (s : State) (k : Reg) (b : Bool) : (s.setKeyFlag k b).cfg = s.cfg := rfl
@[simp] theorem State.setKeyFlag_draws (s : State) (k : Reg) (b : Bool) : (s.setKeyFlag k b).draws = s.draws := rfl
@[simp] theorem State.setKeyFlag_reg (s : State) (k : Reg) (b : Bool) (r : Reg) : (s.setKeyFlag k b).reg r = s.reg r := rfl
@[simp] theorem State.setKeyFlag_byteAt (s : State) (k : Reg) (b : Bool) (c : Nat) : (s.setKeyFlag k b).byteAt c = s.byteAt c := rfl
@[simp] theorem State.setKeyFlag_slot (s : State) (k : Reg) (b : Bool) (j : Fin 16) : (s.setKeyFlag k b).slot j = s.slot j := rfl

end Sys2Proof.Machine
end

