-- ==== Sys2Proof/Laws/Memory.lean ====
section
/-! SUPPORT. Memory: a read after a write, the bytes a write leaves alone, and the canonical form (20_memory.md R41, R42). -/

namespace Sys2Proof.Machine

/-! ### The list of bytes -/

theorem Memory.lookup_insert (m : Memory) (a : Nat) (b : Byte) (c : Nat) :
    (Memory.insert m a b).lookup c = if c = a then some b else m.lookup c := by
  induction m with
  | nil => simp [Memory.insert, Memory.lookup, eq_comm]
  | cons e m ih =>
    obtain ⟨k, d⟩ := e
    simp only [Memory.insert]
    split
    · simp only [Memory.lookup, eq_comm]
    · split
      · subst_vars
        simp only [Memory.lookup]
        by_cases h : c = k <;> simp [h, eq_comm]
      · rename_i h
        simp only [Memory.lookup, ih]
        by_cases h' : k = c
        · subst h'; simp; omega
        · simp [h']

theorem Memory.lookup_erase (m : Memory) (a c : Nat) :
    (Memory.erase m a).lookup c = if c = a then none else m.lookup c := by
  induction m with
  | nil => simp [Memory.erase, Memory.lookup]
  | cons e m ih =>
    obtain ⟨k, d⟩ := e
    unfold Memory.erase at ih ⊢
    by_cases hk : k = a
    · subst hk
      simp only [List.filter_cons, bne_self_eq_false, Bool.false_eq_true, if_false, ih, Memory.lookup]
      by_cases h : c = k <;> simp [h, eq_comm]
    · simp only [List.filter_cons, bne_iff_ne, ne_eq, hk, not_false_eq_true, if_true, Memory.lookup, ih]
      by_cases h : k = c
      · subst h; simp [hk]
      · simp [h]

/-- A read of one byte after a write of one byte, in every list of bytes. -/
theorem Memory.read_write (base : Nat) (m : Memory) (a : Nat) (b : Byte) (c : Nat) :
    Memory.read base (Memory.write base m a b) c = if c = a then b else Memory.read base m c := by
  unfold Memory.read Memory.write
  split
  · rw [Memory.lookup_erase]
    split
    · subst_vars; simp [*]
    · rfl
  · rw [Memory.lookup_insert]
    split <;> simp

/-! ### The canonical form -/

theorem Memory.wfFrom_cons (base lo k : Nat) (b : Byte) (m : Memory) :
    Memory.wfFrom base lo ((k, b) :: m) = true ↔
      lo ≤ k ∧ k < 4096 ∧ b ≠ resetByte base k ∧ Memory.wfFrom base (k + 1) m = true := by
  simp [Memory.wfFrom, and_assoc]

theorem Memory.wfFrom_mono {base lo lo' : Nat} (h : lo' ≤ lo) {m : Memory} (hm : Memory.wfFrom base lo m = true) :
    Memory.wfFrom base lo' m = true := by
  cases m with
  | nil => rfl
  | cons e m =>
    rw [Memory.wfFrom_cons] at hm ⊢
    exact ⟨h.trans hm.1, hm.2⟩

theorem Memory.wfFrom_insert {base lo a : Nat} {b : Byte} {m : Memory} (hm : Memory.wfFrom base lo m = true) (hlo : lo ≤ a)
    (ha : a < 4096) (hb : b ≠ resetByte base a) : Memory.wfFrom base lo (Memory.insert m a b) = true := by
  induction m generalizing lo with
  | nil => simp [Memory.insert, Memory.wfFrom, hlo, ha, hb]
  | cons e m ih =>
    obtain ⟨k, d⟩ := e
    rw [Memory.wfFrom_cons] at hm
    obtain ⟨h1, h2, h3, h4⟩ := hm
    simp only [Memory.insert]
    split
    · simp only [Memory.wfFrom_cons]
      exact ⟨hlo, ha, hb, by omega, h2, h3, h4⟩
    · split
      · subst_vars
        rw [Memory.wfFrom_cons]
        exact ⟨hlo, ha, hb, h4⟩
      · rw [Memory.wfFrom_cons]
        exact ⟨h1, h2, h3, ih h4 (by omega)⟩

theorem Memory.wfFrom_erase {base lo : Nat} {m : Memory} (a : Nat) (hm : Memory.wfFrom base lo m = true) :
    Memory.wfFrom base lo (Memory.erase m a) = true := by
  induction m generalizing lo with
  | nil => rfl
  | cons e m ih =>
    obtain ⟨k, d⟩ := e
    rw [Memory.wfFrom_cons] at hm
    unfold Memory.erase at ih ⊢
    rw [List.filter_cons]
    split
    · rw [Memory.wfFrom_cons]
      exact ⟨hm.1, hm.2.1, hm.2.2.1, ih hm.2.2.2⟩
    · exact ih (Memory.wfFrom_mono (by omega) hm.2.2.2)

/-- A write of one byte inside memory keeps the canonical form. -/
theorem Memory.wf_write {base : Nat} {m : Memory} {a : Nat} (b : Byte) (hm : Memory.wf base m = true) (ha : a < 4096) :
    Memory.wf base (Memory.write base m a b) = true := by
  unfold Memory.wf Memory.write at *
  split
  · exact Memory.wfFrom_erase a hm
  · exact Memory.wfFrom_insert hm (Nat.zero_le a) ha ‹_›

theorem Memory.lookup_none_of_wfFrom {base lo : Nat} {m : Memory} (hm : Memory.wfFrom base lo m = true) {a : Nat} (ha : a < lo) :
    m.lookup a = none := by
  induction m generalizing lo with
  | nil => rfl
  | cons e m ih =>
    obtain ⟨k, d⟩ := e
    rw [Memory.wfFrom_cons] at hm
    simp only [Memory.lookup]
    rw [if_neg (by omega)]
    exact ih hm.2.2.2 (by omega)

/-- The form is canonical: two lists in it that read alike everywhere are equal. -/
theorem Memory.ext_of_wfFrom {base lo : Nat} {m m' : Memory} (hm : Memory.wfFrom base lo m = true)
    (hm' : Memory.wfFrom base lo m' = true) (h : ∀ a, Memory.read base m a = Memory.read base m' a) : m = m' := by
  induction m generalizing lo m' with
  | nil =>
    cases m' with
    | nil => rfl
    | cons e m' =>
      obtain ⟨k, b⟩ := e
      rw [Memory.wfFrom_cons] at hm'
      have := h k
      simp only [Memory.read, Memory.lookup, if_true, Option.getD_none, Option.getD_some] at this
      exact absurd this.symm hm'.2.2.1
  | cons e m ih =>
    obtain ⟨k, b⟩ := e
    have hm0 := hm
    rw [Memory.wfFrom_cons] at hm
    cases m' with
    | nil =>
      have := h k
      simp only [Memory.read, Memory.lookup, if_true, Option.getD_none, Option.getD_some] at this
      exact absurd this hm.2.2.1
    | cons e' m' =>
      obtain ⟨k', b'⟩ := e'
      have hm0' := hm'
      rw [Memory.wfFrom_cons] at hm'
      have hk : k = k' := by
        rcases Nat.lt_trichotomy k k' with hlt | heq | hgt
        · exfalso
          have := h k
          rw [Memory.read, Memory.read, Memory.lookup_none_of_wfFrom (lo := k') (a := k)
            (Memory.wfFrom_cons .. |>.2 ⟨le_refl _, hm'.2⟩) hlt] at this
          simp only [Memory.lookup, if_true, Option.getD_none, Option.getD_some] at this
          exact hm.2.2.1 this
        · exact heq
        · exfalso
          have := h k'
          rw [Memory.read, Memory.read, Memory.lookup_none_of_wfFrom (lo := k) (a := k')
            (Memory.wfFrom_cons .. |>.2 ⟨le_refl _, hm.2⟩) hgt] at this
          simp only [Memory.lookup, if_true, Option.getD_none, Option.getD_some] at this
          exact hm'.2.2.1 this.symm
      subst hk
      have hb : b = b' := by
        have := h k
        simpa [Memory.read, Memory.lookup] using this
      subst hb
      congr 1
      refine ih hm.2.2.2 hm'.2.2.2 fun a => ?_
      by_cases ha : k = a
      · subst ha
        rw [Memory.read, Memory.read, Memory.lookup_none_of_wfFrom hm.2.2.2 (Nat.lt_succ_self k),
          Memory.lookup_none_of_wfFrom hm'.2.2.2 (Nat.lt_succ_self k)]
      · have := h a
        simpa [Memory.read, Memory.lookup, ha] using this

/-! ### One byte of a state -/

/-- R41, R42: what every byte reads as after one is written. -/
theorem State.byteAt_setByte (s : State) (a : Nat) (b : Byte) (c : Nat) :
    (s.setByte a b).byteAt c = if c = a then b else s.byteAt c :=
  Memory.read_write ..

@[simp] theorem State.setByte_ea (s : State) (a : Nat) (b : Byte) (k : Nat) : (s.setByte a b).ea k = s.ea k := rfl

/-- `setBytes` writes memory and nothing else. -/
theorem State.setBytes_eq (s : State) (a : Nat) (bs : List Byte) : s.setBytes a bs = { s with mem := (s.setBytes a bs).mem } := by
  induction bs generalizing s a with
  | nil => rfl
  | cons b bs ih =>
    simp only [State.setBytes]
    rw [ih]
    rfl

/-- Everything `setBytes` does: the `k`-th byte of the list stands at `a + k`, every other byte of memory is as before. -/
theorem State.byteAt_setBytes (s : State) (a : Nat) (bs : List Byte) (c : Nat) :
    (s.setBytes a bs).byteAt c = if h : a ≤ c ∧ c - a < bs.length then bs[c - a]'h.2 else s.byteAt c := by
  induction bs generalizing s a with
  | nil => simp [State.setBytes]
  | cons b bs ih =>
    simp only [State.setBytes, ih, State.byteAt_setByte, List.length_cons]
    by_cases h1 : c = a
    · subst h1
      rw [dif_neg (by omega), dif_pos (by omega)]
      simp
    · by_cases h2 : a + 1 ≤ c ∧ c - (a + 1) < bs.length
      · rw [dif_pos h2, dif_pos (by omega)]
        have : c - a = (c - (a + 1)) + 1 := by omega
        simp only [this, List.getElem_cons_succ]
      · rw [dif_neg h2, dif_neg (by omega), if_neg h1]

/-- `setBytes` inside memory keeps the canonical form. -/
theorem State.setBytes_wf {s : State} {a : Nat} {bs : List Byte} (hs : Memory.wf s.cfg.fontBase.val s.mem = true)
    (h : a + bs.length ≤ 4096) : Memory.wf s.cfg.fontBase.val (s.setBytes a bs).mem = true := by
  induction bs generalizing s a with
  | nil => exact hs
  | cons b bs ih =>
    simp only [List.length_cons] at h
    exact ih (s := s.setByte a b) (Memory.wf_write b hs (by omega)) (by omega)

@[simp] theorem State.setBytes_v (s : State) (a : Nat) (bs : List Byte) : (s.setBytes a bs).v = s.v := by rw [setBytes_eq]
@[simp] theorem State.setBytes_idx (s : State) (a : Nat) (bs : List Byte) : (s.setBytes a bs).idx = s.idx := by rw [setBytes_eq]
@[simp] theorem State.setBytes_pc (s : State) (a : Nat) (bs : List Byte) : (s.setBytes a bs).pc = s.pc := by rw [setBytes_eq]
@[simp] theorem State.setBytes_sp (s : State) (a : Nat) (bs : List Byte) : (s.setBytes a bs).sp = s.sp := by rw [setBytes_eq]
@[simp] theorem State.setBytes_stack (s : State) (a : Nat) (bs : List Byte) : (s.setBytes a bs).stack = s.stack := by
  rw [setBytes_eq]
@[simp] theorem State.setBytes_dt (s : State) (a : Nat) (bs : List Byte) : (s.setBytes a bs).dt = s.dt := by rw [setBytes_eq]
@[simp] theorem State.setBytes_st (s : State) (a : Nat) (bs : List Byte) : (s.setBytes a bs).st = s.st := by rw [setBytes_eq]
@[simp] theorem State.setBytes_display (s : State) (a : Nat) (bs : List Byte) : (s.setBytes a bs).display = s.display := by
  rw [setBytes_eq]
@[simp] theorem State.setBytes_key (s : State) (a : Nat) (bs : List Byte) : (s.setBytes a bs).key = s.key := by rw [setBytes_eq]
@[simp] theorem State.setBytes_waiting (s : State) (a : Nat) (bs : List Byte) : (s.setBytes a bs).waiting = s.waiting := by
  rw [setBytes_eq]
@[simp] theorem State.setBytes_waitX (s : State) (a : Nat) (bs : List Byte) : (s.setBytes a bs).waitX = s.waitX := by
  rw [setBytes_eq]
@[simp] theorem State.setBytes_cfg (s : State) (a : Nat) (bs : List Byte) : (s.setBytes a bs).cfg = s.cfg := by rw [setBytes_eq]
@[simp] theorem State.setBytes_draws (s : State) (a : Nat) (bs : List Byte) : (s.setBytes a bs).draws = s.draws := by
  rw [setBytes_eq]
@[simp] theorem State.setBytes_reg (s : State) (a : Nat) (bs : List Byte) (r : Reg) : (s.setBytes a bs).reg r = s.reg r := by
  rw [setBytes_eq]; rfl

end Sys2Proof.Machine
end

