-- ==== Sys2Proof/Laws/Ops.lean ====
section
/-! SUPPORT. One lemma per shared operation that says everything it can do: registers, flags, skips, the range check, raising a
fault, the keypad. -/

namespace Sys2Proof.Machine

/-! ### Registers -/

/-- What every register holds after one is written. -/
theorem State.reg_setReg (s : State) (i : Reg) (b : Byte) (r : Reg) : (s.setReg i b).reg r = if r = i then b else s.reg r := by
  simp only [State.reg, State.setReg_v, Vector.getElem_set, Fin.ext_iff, eq_comm]

@[simp] theorem State.reg_setReg_self (s : State) (i : Reg) (b : Byte) : (s.setReg i b).reg i = b := by
  rw [State.reg_setReg, if_pos rfl]

theorem State.reg_setReg_ne (s : State) {i r : Reg} (b : Byte) (h : r ≠ i) : (s.setReg i b).reg r = s.reg r := by
  rw [State.reg_setReg, if_neg h]

/-- Two states with the same registers one by one hold the same register file. -/
theorem State.v_ext {s t : State} (h : ∀ r, t.reg r = s.reg r) : t.v = s.v := by
  apply Vector.ext
  intro k hk
  exact h ⟨k, hk⟩

theorem mem_allRegs (r : Reg) : r ∈ allRegs := by
  revert r; decide

theorem allRegs_nodup : allRegs.Nodup := by decide

theorem mem_regsUpTo (x r : Reg) : r ∈ regsUpTo x ↔ r.val ≤ x.val := by
  revert x r; decide

theorem regsUpTo_nodup (x : Reg) : (regsUpTo x).Nodup :=
  allRegs_nodup.sublist (List.take_sublist ..)

@[simp] theorem length_regsUpTo (x : Reg) : (regsUpTo x).length = x.val + 1 := by
  revert x; decide

theorem length_allRegs : allRegs.length = 16 := rfl

theorem getElem_allRegs (k : Nat) (h : k < allRegs.length) : allRegs[k] = ⟨k, h⟩ := by
  have : ∀ r : Fin 16, allRegs[r.val]'r.isLt = r := by decide
  exact this ⟨k, h⟩

theorem getElem_regsUpTo (x : Reg) (k : Nat) (h : k < (regsUpTo x).length) : ((regsUpTo x)[k]).val = k := by
  simp only [regsUpTo, List.getElem_take, getElem_allRegs]

/-- Writing registers one after another, from values that do not depend on them. -/
theorem State.foldl_setReg (f : Reg → Byte) (l : List Reg) (s : State) :
    l.foldl (fun t i => t.setReg i (f i)) s = { s with v := (l.foldl (fun t i => t.setReg i (f i)) s).v } ∧
      ∀ r, (l.foldl (fun t i => t.setReg i (f i)) s).reg r = if r ∈ l then f r else s.reg r := by
  induction l generalizing s with
  | nil => exact ⟨rfl, fun r => by simp⟩
  | cons i l ih =>
    refine ⟨?_, fun r => ?_⟩
    · rw [List.foldl_cons, (ih _).1]; rfl
    · rw [List.foldl_cons, (ih _).2, State.reg_setReg]
      by_cases h : r ∈ l
      · simp [h]
      · by_cases h' : r = i <;> simp [h, h']

/-- Everything Fx65's loop does: V0 to Vx hold the bytes from `I` (R125). -/
theorem State.loadUpTo_reg (s : State) (x r : Reg) :
    (s.loadUpTo x).reg r = if r.val ≤ x.val then s.byteAt (s.ea r.val) else s.reg r := by
  unfold State.loadUpTo
  rw [(State.foldl_setReg (fun i => s.byteAt (s.ea i.val)) _ s).2]
  simp only [mem_regsUpTo]

/-- Fx65's loop writes registers only. -/
theorem State.loadUpTo_eq (s : State) (x : Reg) : s.loadUpTo x = { s with v := (s.loadUpTo x).v } :=
  (State.foldl_setReg (fun i => s.byteAt (s.ea i.val)) _ s).1

/-- Fx55's loop writes memory only. -/
theorem State.storeUpTo_eq (s : State) (x : Reg) : s.storeUpTo x = { s with mem := (s.storeUpTo x).mem } :=
  State.setBytes_eq ..

/-- Everything Fx55's loop does: byte `I + k` holds `V[k]` for `k` up to `x` (R124). -/
theorem State.storeUpTo_byteAt (s : State) (x : Reg) (a : Nat) :
    (s.storeUpTo x).byteAt a =
      if h : s.ea 0 ≤ a ∧ a - s.ea 0 < x.val + 1 then s.reg ⟨a - s.ea 0, by omega⟩ else s.byteAt a := by
  unfold State.storeUpTo
  rw [State.byteAt_setBytes]
  simp only [List.length_map, length_regsUpTo]
  split
  · rw [List.getElem_map]
    congr 1
    apply Fin.ext
    exact getElem_regsUpTo x _ (by rw [length_regsUpTo]; omega)
  · rfl

/-- What every slot of the call stack holds after one is written (R82). -/
theorem State.slot_setStack (s : State) (i : Fin 16) (w : Word) (n : Byte) (j : Fin 16) :
    (s.setStack i w n).slot j = if j = i then w else s.slot j := by
  simp only [State.slot, State.setStack_stack, Vector.getElem_set, Fin.ext_iff, eq_comm]

/-! ### Flags -/

@[simp] theorem flagByte_toNat (c : Bool) : (flagByte c).toNat = if c then 1 else 0 := by
  cases c <;> rfl

/-- Everything `setWithFlag` does to a register: VF holds the flag even when it is the destination (R12). -/
theorem State.setWithFlag_reg (s : State) (x : Reg) (b : Byte) (c : Bool) (r : Reg) :
    (s.setWithFlag x b c).reg r = if r = VF then flagByte c else if r = x then b else s.reg r := by
  simp only [State.setWithFlag, State.reg_setReg]

theorem State.setWithFlag_eq (s : State) (x : Reg) (b : Byte) (c : Bool) :
    s.setWithFlag x b c = { s with v := (s.setWithFlag x b c).v } := rfl

/-- Everything `setLogic` does to a register (R104). -/
theorem State.setLogic_reg (s : State) (x : Reg) (b : Byte) (r : Reg) :
    (s.setLogic x b).reg r =
      if s.cfg.quirkVfReset = true ∧ r = VF then 0x00#8 else if r = x then b else s.reg r := by
  unfold State.setLogic
  cases s.cfg.quirkVfReset <;> simp [State.reg_setReg]

theorem State.setLogic_eq (s : State) (x : Reg) (b : Byte) : s.setLogic x b = { s with v := (s.setLogic x b).v } := by
  unfold State.setLogic
  split <;> rfl

/-! ### PC and I -/

/-- A skip changes PC and nothing else. -/
theorem State.skipIf_eq (s : State) (c : Bool) : s.skipIf c = { s with pc := (s.skipIf c).pc } := by
  unfold State.skipIf
  split <;> rfl

/-- R80: a taken skip adds 2 to the already-advanced PC. -/
theorem State.skipIf_pc (s : State) (c : Bool) : (s.skipIf c).pc = if c then s.pc + 2#16 else s.pc := by
  unfold State.skipIf
  split <;> rfl

/-- `incIdx` changes `I` and nothing else. -/
theorem State.incIdx_eq (s : State) (x : Reg) : s.incIdx x = { s with idx := (s.incIdx x).idx } := by
  unfold State.incIdx
  split <;> rfl

theorem State.incIdx_idx (s : State) (x : Reg) :
    (s.incIdx x).idx = if s.cfg.quirkMemIncI then s.idx + BitVec.ofNat 16 (x.val + 1) else s.idx := by
  unfold State.incIdx
  split <;> rfl

@[simp] theorem State.incIdx_byteAt (s : State) (x : Reg) (a : Nat) : (s.incIdx x).byteAt a = s.byteAt a := by
  rw [State.incIdx_eq]; rfl

@[simp] theorem State.incIdx_reg (s : State) (x r : Reg) : (s.incIdx x).reg r = s.reg r := by
  rw [State.incIdx_eq]; rfl

@[simp] theorem toNat_addr16 (nnn : Addr12) : (addr16 nnn).toNat = nnn.toNat := by
  have := nnn.isLt
  simp only [addr16, BitVec.toNat_setWidth]
  omega

@[simp] theorem toNat_byte16 (b : Byte) : (byte16 b).toNat = b.toNat := by
  have := b.isLt
  simp only [byte16, BitVec.toNat_setWidth]
  omega

@[simp] theorem lowNibble_val (b : Byte) : (lowNibble b).val = b.toNat % 16 := by
  simp [lowNibble]

/-- The address of a digit's glyph (R122): with R5's constraint on FONT_BASE the sum never wraps. -/
theorem toNat_glyphAddr (c : Config) (d : Reg) : (glyphAddr c d).toNat = c.fontBase.val + 5 * d.val := by
  have := c.fontBase.isLt
  simp [glyphAddr]; omega

/-! ### The range check and the faults -/

/-- R44: when the range check finds nothing, every address of the range is inside memory. -/
theorem rangeFault_none {lo n : Nat} : rangeFault lo n = none ↔ n = 0 ∨ lo + n ≤ 4096 := by
  unfold rangeFault
  split <;> simp <;> omega

/-- R44: otherwise it names the lowest address of the range above 4095. -/
theorem rangeFault_some {lo n a : Nat} : rangeFault lo n = some a ↔ (1 ≤ n ∧ 4096 < lo + n) ∧ a = max lo 4096 := by
  unfold rangeFault
  split <;> simp <;> omega

/-- Everything a ranged data access does (R44, R152). -/
theorem withRange_cases (n : Nat) (s ok : State) :
    (n = 0 ∨ s.idx.toNat + n ≤ 4096) ∧ withRange n s ok = .next ok ∨
      (1 ≤ n ∧ 4096 < s.idx.toNat + n) ∧ withRange n s ok = .fault (.memoryFault (max s.idx.toNat 4096) s) := by
  unfold withRange
  cases h : rangeFault s.idx.toNat n with
  | none => exact .inl ⟨rangeFault_none.1 h, rfl⟩
  | some a =>
    obtain ⟨h1, h2⟩ := rangeFault_some.1 h
    exact .inr ⟨h1, by rw [h2]; rfl⟩

theorem withRange_next {n : Nat} {s ok t : State} (h : withRange n s ok = .next t) :
    t = ok ∧ (n = 0 ∨ s.idx.toNat + n ≤ 4096) := by
  rcases withRange_cases n s ok with ⟨h1, h2⟩ | ⟨-, h2⟩ <;> rw [h2] at h
  · exact ⟨by injection h with h; exact h.symm, h1⟩
  · cases h

theorem withRange_fault {n : Nat} {s ok : State} {f : Fault} (h : withRange n s ok = .fault f) :
    f = .memoryFault (max s.idx.toNat 4096) s ∧ 1 ≤ n ∧ 4096 < s.idx.toNat + n := by
  rcases withRange_cases n s ok with ⟨-, h2⟩ | ⟨h1, h2⟩ <;> rw [h2] at h
  · cases h
  · exact ⟨by injection h with h; exact h.symm, h1⟩

theorem withRange_ok {n : Nat} {s : State} (ok : State) (h : n = 0 ∨ s.idx.toNat + n ≤ 4096) : withRange n s ok = .next ok := by
  unfold withRange
  rw [rangeFault_none.2 h]

theorem withRange_out {n : Nat} {s : State} (ok : State) (h : 1 ≤ n) (h' : 4096 < s.idx.toNat + n) :
    withRange n s ok = .fault (.memoryFault (max s.idx.toNat 4096) s) := by
  unfold withRange
  rw [rangeFault_some.2 ⟨⟨h, h'⟩, rfl⟩]
  rfl

@[simp] theorem deliver_next (t : State) : deliver (.next t) = .next t := rfl

/-- What reaches the driver is a next state only if the step answered it, or if it faulted under `skip` (R154). -/
theorem deliver_eq_next {r : Result} {t : State} (h : deliver r = .next t) :
    r = .next t ∨ ∃ f, r = .fault f ∧ f.after.cfg.faultPolicy = .skip ∧ t = f.after := by
  cases r with
  | next s => exact .inl h
  | fault f =>
    simp only [deliver] at h
    cases hp : f.after.cfg.faultPolicy with
    | halt => rw [hp] at h; cases h
    | skip =>
      rw [hp] at h
      injection h with h
      exact .inr ⟨f, rfl, hp, h.symm⟩
  | refused r => cases h

/-! ### Keypad -/

theorem State.pressed_setKeyFlag (s : State) (k : Reg) (b : Bool) (q : Reg) :
    (s.setKeyFlag k b).pressed q = if q = k then b else s.pressed q := by
  simp only [State.pressed, State.setKeyFlag_key, Vector.getElem_set, Fin.ext_iff, eq_comm]

/-- R166: no key is reported only when none is pressed. -/
theorem anyPressed_none {s : State} : anyPressed s = none ↔ ∀ k, s.pressed k = false := by
  unfold anyPressed
  rw [List.find?_eq_none]
  exact ⟨fun h k => by simpa using h k (mem_allRegs k), fun h k _ => by simp [h k]⟩

/-- R166: the key reported is pressed, and it is the lowest that is. -/
theorem anyPressed_some {s : State} {k : Reg} :
    anyPressed s = some k ↔ s.pressed k = true ∧ ∀ j, j < k → s.pressed j = false := by
  unfold anyPressed
  rw [List.find?_eq_some_iff_getElem]
  constructor
  · rintro ⟨hp, i, hi, he, hl⟩
    rw [getElem_allRegs] at he
    subst he
    refine ⟨hp, fun j hj => ?_⟩
    have := hl j.val hj
    rw [getElem_allRegs] at this
    simpa using this
  · rintro ⟨hp, hl⟩
    refine ⟨hp, k.val, by rw [length_allRegs]; exact k.isLt, getElem_allRegs .., fun j hj => ?_⟩
    rw [getElem_allRegs]
    simpa using hl ⟨j, by omega⟩ hj

@[simp] theorem keyByte_toNat (k : Reg) : (keyByte k).toNat = k.val := by
  have := k.isLt
  simp only [keyByte, BitVec.toNat_ofNat]
  omega

end Sys2Proof.Machine
end

