-- ==== Sys2Proof/Laws/Display.lean ====
section
/-! SUPPORT. What drawing a sprite does to every pixel and to the collision flag (43_display.md R132). -/

namespace Sys2Proof.Machine

theorem Display.pixel_setPixel (d : Display) (y : Fin 32) (x : Fin 64) (b : Bool) (y' : Fin 32) (x' : Fin 64) :
    (d.setPixel y x b).pixel y' x' = if y' = y ∧ x' = x then b else d.pixel y' x' := by
  unfold Display.pixel Display.setPixel
  by_cases hy : y.val = y'.val
  · simp only [hy, Vector.getElem_set_self, Vector.getElem_set, Fin.ext_iff, true_and, eq_comm]
  · rw [Vector.getElem_set_ne _ _ hy, if_neg (by rw [Fin.ext_iff]; omega)]

@[simp] theorem Display.pixel_clear (y : Fin 32) (x : Fin 64) : Display.clear.pixel y x = false := by
  simp [Display.pixel, Display.clear]

/-- Two displays with the same pixels one by one are equal. -/
theorem Display.ext_pixel {d e : Display} (h : ∀ y x, d.pixel y x = e.pixel y x) : d = e := by
  apply Vector.ext
  intro y hy
  apply Vector.ext
  intro x hx
  exact h ⟨y, hy⟩ ⟨x, hx⟩

theorem Canvas.plot_pixel (k : Canvas) (y : Fin 32) (x : Fin 64) (y' : Fin 32) (x' : Fin 64) :
    (k.plot y x).display.pixel y' x' = if y' = y ∧ x' = x then !k.display.pixel y x else k.display.pixel y' x' :=
  Display.pixel_setPixel ..

/-- A pixel of row `y` that one of the columns `cs` of the sprite byte `b` toggles. -/
def HitIn (cs : List Nat) (b : Byte) (x0 : Nat) (x : Fin 64) : Prop :=
  ∃ c ∈ cs, spriteBit b c = true ∧ column x0 c = x

/-- What some columns of one sprite row do, when no two of them are the same column of the display. -/
theorem Canvas.foldl_plot (b : Byte) (x0 : Nat) (y : Fin 32) (cs : List Nat) (hcs : (cs.map (column x0)).Nodup) (k : Canvas) :
    let k' := cs.foldl (fun k c => if spriteBit b c then k.plot y (column x0 c) else k) k
    (∀ y' x', y' = y ∧ HitIn cs b x0 x' → k'.display.pixel y' x' = !k.display.pixel y' x') ∧
      (∀ y' x', ¬(y' = y ∧ HitIn cs b x0 x') → k'.display.pixel y' x' = k.display.pixel y' x') ∧
      (k'.collided = true ↔
        k.collided = true ∨ ∃ c ∈ cs, spriteBit b c = true ∧ k.display.pixel y (column x0 c) = true) := by
  induction cs generalizing k with
  | nil => exact ⟨by rintro _ _ ⟨-, c, hc, -⟩; simp at hc, fun _ _ _ => rfl, by simp⟩
  | cons c cs ih =>
    rw [List.map_cons, List.nodup_cons] at hcs
    obtain ⟨hc, hcs⟩ := hcs
    have hne : ∀ c' ∈ cs, column x0 c' ≠ column x0 c := fun c' h' e => hc (e ▸ List.mem_map_of_mem h')
    simp only [List.foldl_cons]
    by_cases hb : spriteBit b c = true
    · rw [if_pos hb]
      obtain ⟨h1, h2, h3⟩ := ih hcs (k.plot y (column x0 c))
      refine ⟨?_, ?_, ?_⟩
      · rintro y' x' ⟨rfl, c', hc', hb', rfl⟩
        rcases List.mem_cons.1 hc' with rfl | hc'
        · rw [h2 _ _ (by rintro ⟨-, c'', hc'', -, e⟩; exact hne c'' hc'' e), Canvas.plot_pixel, if_pos ⟨rfl, rfl⟩]
        · rw [h1 _ _ ⟨rfl, c', hc', hb', rfl⟩, Canvas.plot_pixel, if_neg (fun e => hne c' hc' e.2)]
      · intro y' x' hn
        rw [h2 _ _ (fun ⟨e, c', hc', hb', e'⟩ => hn ⟨e, c', List.mem_cons_of_mem _ hc', hb', e'⟩), Canvas.plot_pixel,
          if_neg (fun ⟨e, e'⟩ => hn ⟨e, c, List.mem_cons_self, hb, e'.symm⟩)]
      · rw [h3]
        simp only [Canvas.plot, Bool.or_eq_true, List.mem_cons]
        constructor
        · rintro ((h | h) | ⟨c', hc', hb', hp⟩)
          · exact .inl h
          · exact .inr ⟨c, .inl rfl, hb, h⟩
          · rw [Display.pixel_setPixel, if_neg (fun e => hne c' hc' e.2)] at hp
            exact .inr ⟨c', .inr hc', hb', hp⟩
        · rintro (h | ⟨c', rfl | hc', hb', hp⟩)
          · exact .inl (.inl h)
          · exact .inl (.inr hp)
          · refine .inr ⟨c', hc', hb', ?_⟩
            rw [Display.pixel_setPixel, if_neg (fun e => hne c' hc' e.2)]
            exact hp
    · rw [if_neg hb]
      obtain ⟨h1, h2, h3⟩ := ih hcs k
      have key : ∀ x', HitIn (c :: cs) b x0 x' ↔ HitIn cs b x0 x' := fun x' =>
        ⟨fun ⟨c', hc', hb', e⟩ => by
          rcases List.mem_cons.1 hc' with rfl | hc'
          · exact absurd hb' hb
          · exact ⟨c', hc', hb', e⟩,
         fun ⟨c', hc', h⟩ => ⟨c', List.mem_cons_of_mem _ hc', h⟩⟩
      simp only [key]
      refine ⟨h1, h2, h3.trans (or_congr_right ⟨fun ⟨c', hc', h⟩ => ⟨c', List.mem_cons_of_mem _ hc', h⟩, ?_⟩)⟩
      rintro ⟨c', hc', hb', hp⟩
      rcases List.mem_cons.1 hc' with rfl | hc'
      · exact absurd hb' hb
      · exact ⟨c', hc', hb', hp⟩

theorem column_inj {x0 c c' : Nat} (hc : c < 64) (hc' : c' < 64) (h : column x0 c = column x0 c') : c = c' := by
  have : (x0 + c) % 64 = (x0 + c') % 64 := congrArg Fin.val h
  omega

theorem row_inj {y0 r r' : Nat} (h : row y0 r = row y0 r') (hr : r < r' + 32) (hr' : r' < r + 32) : r = r' := by
  have : (y0 + r) % 32 = (y0 + r') % 32 := congrArg Fin.val h
  omega

theorem nodup_columns (x0 : Nat) : ((List.range 8).map (column x0)).Nodup := by
  rw [List.nodup_map_iff_inj_on List.nodup_range]
  intro c hc c' hc' h
  rw [List.mem_range] at hc hc'
  exact column_inj (by omega) (by omega) h

/-- Everything one sprite row does. -/
theorem Canvas.drawRow_spec (k : Canvas) (b : Byte) (x0 : Nat) (y : Fin 32) :
    (∀ y' x', y' = y ∧ HitIn (List.range 8) b x0 x' → (k.drawRow b x0 y).display.pixel y' x' = !k.display.pixel y' x') ∧
      (∀ y' x', ¬(y' = y ∧ HitIn (List.range 8) b x0 x') → (k.drawRow b x0 y).display.pixel y' x' = k.display.pixel y' x') ∧
      ((k.drawRow b x0 y).collided = true ↔
        k.collided = true ∨ ∃ c ∈ List.range 8, spriteBit b c = true ∧ k.display.pixel y (column x0 c) = true) :=
  Canvas.foldl_plot b x0 y (List.range 8) (nodup_columns x0) k

/-- A pixel that a sprite whose rows `bs` start at row `r` toggles (R132). -/
def HitRows (x0 y0 r : Nat) (bs : List Byte) (y : Fin 32) (x : Fin 64) : Prop :=
  ∃ (j : Nat) (h : j < bs.length), row y0 (r + j) = y ∧ ∃ c ∈ List.range 8, spriteBit bs[j] c = true ∧ column x0 c = x

theorem hitRows_cons (x0 y0 r : Nat) (b : Byte) (bs : List Byte) (y : Fin 32) (x : Fin 64) :
    HitRows x0 y0 r (b :: bs) y x ↔ (y = row y0 r ∧ HitIn (List.range 8) b x0 x) ∨ HitRows x0 y0 (r + 1) bs y x := by
  constructor
  · rintro ⟨j, hj, hr, hc⟩
    cases j with
    | zero => exact .inl ⟨by rw [← hr]; rfl, by simpa [HitIn] using hc⟩
    | succ j => exact .inr ⟨j, by simpa using hj, by rw [← hr]; congr 1; omega, by simpa using hc⟩
  · rintro (⟨hy, hc⟩ | ⟨j, hj, hr, hc⟩)
    · exact ⟨0, by simp, by rw [hy]; rfl, by simpa [HitIn] using hc⟩
    · exact ⟨j + 1, by simpa using hj, by rw [← hr]; congr 1; omega, by simpa using hc⟩

/-- Everything a sprite of at most 32 rows does to a pixel and to the collision flag: no pixel is touched twice. -/
theorem Canvas.drawRows_spec (x0 y0 : Nat) (bs : List Byte) (r : Nat) (hbs : bs.length ≤ 32) (k : Canvas) :
    (∀ y x, HitRows x0 y0 r bs y x → (k.drawRows x0 y0 r bs).display.pixel y x = !k.display.pixel y x) ∧
      (∀ y x, ¬HitRows x0 y0 r bs y x → (k.drawRows x0 y0 r bs).display.pixel y x = k.display.pixel y x) ∧
      ((k.drawRows x0 y0 r bs).collided = true ↔
        k.collided = true ∨ ∃ y x, HitRows x0 y0 r bs y x ∧ k.display.pixel y x = true) := by
  induction bs generalizing r k with
  | nil => exact ⟨by rintro y x ⟨j, hj, -⟩; simp at hj, fun _ _ _ => rfl, by simp [Canvas.drawRows, HitRows]⟩
  | cons b bs ih =>
    simp only [List.length_cons] at hbs
    obtain ⟨h1, h2, h3⟩ := ih (r + 1) (by omega) (k.drawRow b x0 (row y0 r))
    obtain ⟨g1, g2, g3⟩ := k.drawRow_spec b x0 (row y0 r)
    have hdis : ∀ y x, HitRows x0 y0 (r + 1) bs y x → y ≠ row y0 r := by
      rintro y x ⟨j, hj, hr, -⟩ e
      have := row_inj (hr.trans e) (by omega) (by omega)
      omega
    simp only [Canvas.drawRows]
    refine ⟨fun y x h => ?_, fun y x h => ?_, ?_⟩
    · by_cases h' : HitRows x0 y0 (r + 1) bs y x
      · rw [h1 y x h', g2 y x (fun e => hdis y x h' e.1)]
      · rw [h2 y x h', g1 y x (((hitRows_cons ..).1 h).resolve_right h')]
    · rw [hitRows_cons, not_or] at h
      rw [h2 y x h.2, g2 y x h.1]
    · rw [h3, g3]
      constructor
      · rintro ((h | ⟨c, hc, hb, hp⟩) | ⟨y, x, hh, hp⟩)
        · exact .inl h
        · exact .inr ⟨row y0 r, column x0 c, (hitRows_cons ..).2 (.inl ⟨rfl, c, hc, hb, rfl⟩), hp⟩
        · rw [g2 y x (fun e => hdis y x hh e.1)] at hp
          exact .inr ⟨y, x, (hitRows_cons ..).2 (.inr hh), hp⟩
      · rintro (h | ⟨y, x, hh, hp⟩)
        · exact .inl (.inl h)
        · rcases (hitRows_cons ..).1 hh with ⟨rfl, c, hc, hb, rfl⟩ | hh
          · exact .inl (.inr ⟨c, hc, hb, hp⟩)
          · refine .inr ⟨y, x, hh, ?_⟩
            rw [g2 y x (fun e => hdis y x hh e.1)]
            exact hp

end Sys2Proof.Machine
end

