-- ==== Sys2Proof/Laws/Exec.lean ====
section
/-! SUPPORT. What the 34 instructions can do, said once: each next state differs from the state before it in one of ten ways. -/

namespace Sys2Proof.Machine

/-- The shapes of an instruction's effect. -/
inductive Effect (s t : State) : Prop
  /-- Loads, arithmetic, logic, shifts, Cxnn, Fx07 and an Fx0A that takes a key. -/
  | regs (h : t = { s with v := t.v, draws := t.draws })
  /-- 1nnn, Bnnn and the six skips. -/
  | pc (h : t = { s with pc := t.pc }) (hp : t.pc.toNat ≤ 0x10FE ∨ t.pc = s.pc ∨ t.pc = s.pc + 2#16)
  /-- 2nnn. -/
  | call (h : s.sp.toNat < 16) (nnn : Addr12) (e : t = (s.setStack ⟨s.sp.toNat, h⟩ s.pc (s.sp + 1#8)).setPc (addr16 nnn))
  /-- 00EE. -/
  | ret (h0 : 0 < s.sp.toNat) (h : s.sp.toNat - 1 < 16) (e : t = (s.setSp (s.sp - 1#8)).setPc (s.slot ⟨s.sp.toNat - 1, h⟩))
  /-- Annn, Fx1E, Fx29. -/
  | idx (h : t = { s with idx := t.idx })
  /-- Fx33, Fx55. -/
  | mem (h : t = { s with idx := t.idx, mem := t.mem })
      (hw : Memory.wf s.cfg.fontBase.val s.mem = true → Memory.wf s.cfg.fontBase.val t.mem = true)
  /-- Fx65. -/
  | load (h : t = { s with v := t.v, idx := t.idx })
  /-- 00E0, Dxyn. -/
  | display (h : t = { s with v := t.v, display := t.display })
  /-- Fx15, Fx18. -/
  | timer (h : t = { s with dt := t.dt, st := t.st })
  /-- An Fx0A that finds no key pressed. -/
  | wait (h : t = { s with waiting := t.waiting, waitX := t.waitX })

/-- Every next state of an instruction has one of these shapes. -/
theorem exec_effect {i : Instr} {s t : State} (h : exec i s = .next t) : Effect s t := by
  cases i <;> simp only [exec] at h
  case call nnn =>
    unfold execCall at h
    split at h
    · cases h
    · split at h
      · rename_i h2
        injection h with h
        exact .call h2 nnn h.symm
      · cases h
  case ret =>
    unfold execRet at h
    split at h
    · cases h
    · split at h
      · rename_i h1 h2
        injection h with h
        exact .ret (by omega) h2 h.symm
      · cases h
  case drw x y n =>
    obtain ⟨rfl, -⟩ := withRange_next h
    exact .display rfl
  case ldB x =>
    obtain ⟨rfl, h⟩ := withRange_next h
    refine .mem (by rw [State.setBytes_eq]) fun hw => State.setBytes_wf hw ?_
    simp [bcdDigits, State.ea]; omega
  case storeRegs x =>
    obtain ⟨rfl, h⟩ := withRange_next h
    refine .mem (by rw [State.incIdx_eq, State.storeUpTo_eq]) fun hw => ?_
    rw [State.incIdx_eq]
    refine State.setBytes_wf hw ?_
    simp [State.ea]; omega
  case loadRegs x =>
    obtain ⟨rfl, -⟩ := withRange_next h
    exact .load (by rw [State.incIdx_eq, State.loadUpTo_eq])
  case ldVxK x =>
    unfold execLdVxK at h
    split at h <;> injection h with h <;> subst h
    · exact .regs rfl
    · exact .wait rfl
  case jp nnn =>
    injection h with h
    subst h
    exact .pc rfl (.inl (by simp; have := nnn.isLt; omega))
  case jpV0 nnn =>
    injection h with h
    subst h
    exact .pc rfl (.inl (by simp [BitVec.toNat_add]; have := nnn.isLt; have := (s.reg 0).isLt; omega))
  all_goals injection h with h; subst h
  case orReg => exact .regs (by rw [State.setLogic_eq])
  case andReg => exact .regs (by rw [State.setLogic_eq])
  case xorReg => exact .regs (by rw [State.setLogic_eq])
  all_goals first
    | exact .regs rfl
    | (refine .pc (State.skipIf_eq ..) ?_; rw [State.skipIf_pc]; split <;> simp)
    | exact .idx rfl
    | exact .timer rfl
    | exact .display rfl

end Sys2Proof.Machine
end

