-- ==== Sys2Proof/Laws/Interface.lean ====
section
/-! SUPPORT. The host operations: what a timer tick does to one timer, what an operation leaves, and a history taken apart. -/

namespace Sys2Proof.Machine

/-- A tick takes 1 from a timer, floored at 0 (R160). -/
@[simp] theorem toNat_tickTimer (b : Byte) : (tickTimer b).toNat = b.toNat - 1 := by
  unfold tickTimer
  split
  · rw [BitVec.toNat_sub]; have := b.isLt; simp; omega
  · omega

@[simp] theorem tick_dt (s : State) : (tick s).dt = tickTimer s.dt := rfl

@[simp] theorem tick_st (s : State) : (tick s).st = tickTimer s.st := rfl

@[simp] theorem tick_byteAt (s : State) (a : Nat) : (tick s).byteAt a = s.byteAt a := rfl

theorem soundActive_iff (s : State) : soundActive s = true ↔ 0 < s.st.toNat := by
  simp [soundActive]

@[simp] theorem settle_next (s t : State) : settle s (.next t) = t := rfl

@[simp] theorem settle_fault (s : State) (f : Fault) : settle s (.fault f) = f.after := rfl

@[simp] theorem settle_refused (s : State) (r : Refusal) : settle s (.refused r) = s := rfl

@[simp] theorem history_nil (s : State) : history [] s = s := rfl

@[simp] theorem history_cons (op : Operation) (ops : List Operation) (s : State) :
    history (op :: ops) s = history ops (settle s (perform op s)) := rfl

end Sys2Proof.Machine
end

