-- ==== Sys2Proof/Laws/Step.lean ====
section
/-! SUPPORT. What the step cycle can do, said once: the key wait, the fetch, an unknown opcode, or the decoded instruction. -/

namespace Sys2Proof.Machine

/-- Every refusal of the decoder is `UnknownOpcode` with the whole word (R64). -/
theorem decode_error {w : Opcode} {e : DecodeError} (h : decode w = .error e) : e = .unknownOpcode w := by
  unfold decode decodeFamily8 decodeFamilyF at h
  simp only at h
  repeat' split at h
  all_goals cases h
  all_goals rfl

theorem toNat_add2 {a : Word} (h : a.toNat ≤ 4094) : (a + 2#16).toNat = a.toNat + 2 := by
  simp [BitVec.toNat_add]; omega

theorem cycle_waiting {s : State} (h : s.waiting = true) : cycle s = .next (keyWait s) := by
  rw [cycle, if_pos h]

theorem fetch_ok {s : State} {w : Opcode} (h : s.fetches w) : fetch s = .ok w := by
  obtain ⟨-, h2, rfl⟩ := h
  rw [fetch, if_neg (by omega), opcodeOf]

theorem fetch_out {s : State} (h : 4094 < s.pc.toNat) : fetch s = .error (max s.pc.toNat 4096) := by
  rw [fetch, if_pos h]

theorem cycle_fetches {s : State} {w : Opcode} {i : Instr} (h : s.fetches w) (hd : decode w = .ok i) : cycle s = exec i s.advance := by
  simp only [cycle, h.1, fetch_ok h, hd]
  rfl

/-- Everything a `Step()` can do (R62, R153). -/
theorem cycle_cases (s : State) :
    (s.waiting = true ∧ cycle s = .next (keyWait s)) ∨
    (s.waiting = false ∧ 4094 < s.pc.toNat ∧ cycle s = .fault (.memoryFault (max s.pc.toNat 4096) s)) ∨
    ∃ w, s.fetches w ∧ ((decode w = .error (.unknownOpcode w) ∧ cycle s = .fault (.unknownOpcode w s.advance)) ∨
      ∃ i, decode w = .ok i ∧ cycle s = exec i s.advance) := by
  cases hw : s.waiting with
  | true => exact .inl ⟨rfl, cycle_waiting hw⟩
  | false =>
    right
    by_cases h : 4094 < s.pc.toNat
    · refine .inl ⟨rfl, h, ?_⟩
      simp only [cycle, hw, fetch_out h]
      rfl
    · have hf : s.fetches (s.byteAt s.pc.toNat ++ s.byteAt (s.pc.toNat + 1)) := ⟨hw, by omega, rfl⟩
      refine .inr ⟨_, hf, ?_⟩
      cases hd : decode (s.byteAt s.pc.toNat ++ s.byteAt (s.pc.toNat + 1)) with
      | error e =>
        obtain rfl := decode_error hd
        refine .inl ⟨rfl, ?_⟩
        simp only [cycle, hw, fetch_ok hf, hd]
        rfl
      | ok i => exact .inr ⟨i, rfl, cycle_fetches hf hd⟩

/-- The key wait changes at most the registers and `waiting` (R146). -/
theorem keyWait_eq (s : State) : keyWait s = { s with v := (keyWait s).v, waiting := (keyWait s).waiting } := by
  unfold keyWait; split <;> rfl

end Sys2Proof.Machine
end

