-- ==== Sys2Proof/Tests/Slice0.lean ====
section
/-! SUPPORT. The model's own tests. Expected results are those of spec/95_test_vectors.md (the vector's name stands in each comment) or of
the rule a comment names; words are written out bit by bit from the encodings of 30_encoding.md R60 and R63. -/

namespace Sys2Proof.Tests

open Sys2Proof Sys2Proof.Machine

/-! ### Helpers -/

/-- The reset state with an opcode where the next step fetches. -/
def boot (w : Nat) : State := State.reset.withFetchWord 16 w

/-- The answer is a next state with the property `p`. -/
def okThen (r : Result) (p : State → Bool) : Bool :=
  match r with
  | .next t => p t
  | _ => false

/-- The answer is a fault with the property `p`. -/
def faultThen (r : Result) (p : Fault → Bool) : Bool :=
  match r with
  | .fault f => p f
  | _ => false

/-- PC after a step from 0x200. -/
def pcAfter (s : State) (pc : Word) : Bool :=
  okThen (step s) fun t => t.pc == pc

/-- Parameters that differ from the defaults in both quirks and the fault policy. -/
def otherConfig : Config where
  programOrigin := 0x200#16
  fontBase := 0
  quirkVfReset := true
  quirkMemIncI := true
  faultPolicy := .skip

/-- `boot` with those parameters. -/
def bootOther (w : Nat) : State := (State.resetWith otherConfig).withFetchWord 16 w

/-! ### WellFormed: a well-formed term, and an ill-formed one for each check -/

theorem test_fields_wf : (Fields.ofWord 0xD125#16).wellFormed = true := by decide
theorem test_fields_bad_nn : Fields.wellFormed ⟨0xD#4, 1#4, 2#4, 5#4, 0x26#8, 0x125#12⟩ = false := by decide
theorem test_fields_bad_nnn : Fields.wellFormed ⟨0xD#4, 1#4, 2#4, 5#4, 0x25#8, 0x225#12⟩ = false := by decide
theorem test_config_wf : defaultConfig.wellFormed = true := by decide
theorem test_config_bad_origin : Config.wellFormed { defaultConfig with programOrigin := 0xFFF#16 } = false := by decide
theorem test_memory_wf : Memory.wf 0x50 [(0x200, 0x12#8), (0x201, 0x01#8)] = true := by decide
theorem test_memory_bad_order : Memory.wf 0x50 [(0x201, 0x12#8), (0x200, 0x01#8)] = false := by decide
theorem test_memory_bad_default : Memory.wf 0x50 [(0x050, 0xF0#8)] = false := by decide
theorem test_memory_bad_address : Memory.wf 0x50 [(0x1000, 0x01#8)] = false := by decide

/-! ### Decode: one word for every constructor, bit by bit -/

theorem test_decode_control :
    decode 0b0000000011101110#16 = .ok .ret ∧ decode 0b0001101010111100#16 = .ok (.jp 0xABC#12) ∧
    decode 0b0010001100000000#16 = .ok (.call 0x300#12) ∧ decode 0b1011001100000000#16 = .ok (.jpV0 0x300#12) ∧
    decode 0b0011001100101010#16 = .ok (.seImm 3 0x2A#8) ∧ decode 0b0100001100101010#16 = .ok (.sneImm 3 0x2A#8) ∧
    decode 0b0101000100100000#16 = .ok (.seReg 1 2) ∧ decode 0b1001000100100000#16 = .ok (.sneReg 1 2) := by decide

theorem test_decode_arith :
    decode 0b0110101001111111#16 = .ok (.ldImm 10 0x7F#8) ∧ decode 0b0111000100000010#16 = .ok (.addImm 1 0x02#8) ∧
    decode 0b1000000100100000#16 = .ok (.ldReg 1 2) ∧ decode 0b1000000100100001#16 = .ok (.orReg 1 2) ∧
    decode 0b1000000100100010#16 = .ok (.andReg 1 2) ∧ decode 0b1000000100100011#16 = .ok (.xorReg 1 2) ∧
    decode 0b1000000100100100#16 = .ok (.addReg 1 2) ∧ decode 0b1000000100100101#16 = .ok (.subReg 1 2) ∧
    decode 0b1000000100100110#16 = .ok (.shr 1 2) ∧ decode 0b1000000100100111#16 = .ok (.subn 1 2) ∧
    decode 0b1000000100101110#16 = .ok (.shl 1 2) ∧ decode 0b1100001100001111#16 = .ok (.rnd 3 0x0F#8) := by decide

theorem test_decode_memory_display :
    decode 0b1010001011110000#16 = .ok (.ldI 0x2F0#12) ∧ decode 0b1111000100011110#16 = .ok (.addI 1) ∧
    decode 0b1111001000101001#16 = .ok (.ldF 2) ∧ decode 0b1111000100110011#16 = .ok (.ldB 1) ∧
    decode 0b1111001001010101#16 = .ok (.storeRegs 2) ∧ decode 0b1111001001100101#16 = .ok (.loadRegs 2) ∧
    decode 0b0000000011100000#16 = .ok .cls ∧ decode 0b1101000100100101#16 = .ok (.drw 1 2 5#4) := by decide

theorem test_decode_keypad_timers :
    decode 0b1110000110011110#16 = .ok (.skp 1) ∧ decode 0b1110000110100001#16 = .ok (.sknp 1) ∧
    decode 0b1111010000000111#16 = .ok (.ldVxDt 4) ∧ decode 0b1111001100001010#16 = .ok (.ldVxK 3) ∧
    decode 0b1111010000010101#16 = .ok (.ldDtVx 4) ∧ decode 0b1111010000011000#16 = .ok (.ldStVx 4) := by decide

/-- F4 to F8, A34, T20, K14, K15: illegal words of each family. -/
theorem test_decode_illegal :
    ([0x0000#16, 0x00E1#16, 0x0123#16, 0x8ABF#16, 0xFF75#16, 0x8128#16, 0x5121#16, 0x9121#16, 0xE19F#16, 0xF108#16].all fun w =>
      decide (decode w = .error (.unknownOpcode w))) = true := by decide

theorem test_decode_bytes_high_first : decodeBytes [0xA2#8, 0xF0#8, 0x33#8] = .ok (.ldI 0x2F0#12, [0x33#8]) := by decide
theorem test_decode_truncated : decodeBytes [0xA2#8] = .error .truncated := by decide

/-- R63: "the 34 patterns are pairwise disjoint": no two rows agree on the bits both fix. -/
theorem test_rows_disjoint : opcodeTable.Pairwise fun r r' => r.value &&& r'.mask ≠ r'.value &&& r.mask := by
  decide +kernel

/-- R63: "43954 decode to an instruction": the number of words a row's mask leaves free, added up. -/
theorem test_legal_count : (opcodeTable.map fun r => 2 ^ ((List.range 16).filter fun k => !r.mask.getLsbD k).length).sum = 43954 := by
  decide +kernel

/-- R67: operand spelling. -/
theorem test_asm : [Instr.seImm 3 0x2A#8, .ldVxK 15, .storeRegs 2].map Instr.asm = ["SE V3, 0x2A", "LD VF, K", "LD [I], V2"] := by
  decide +kernel

/-! ### Control flow -/

/-- T1. -/
theorem test_jp : pcAfter (boot 0x1ABC) 0x0ABC#16 = true := by decide
/-- T8, T9. -/
theorem test_jpV0 : pcAfter ((boot 0xB300).setReg 0 0x04#8) 0x0304#16 = true ∧ pcAfter ((boot 0xBFFF).setReg 0 0xFF#8) 0x10FE#16 = true := by
  decide
/-- T4. -/
theorem test_call : okThen (step ((boot 0x2300).setSp 15#8))
    (fun t => t.pc == 0x300#16 && t.sp == 16#8 && t.slot 15 == 0x202#16) = true := by decide
/-- T5. -/
theorem test_call_overflow : faultThen (step ((boot 0x2300).setSp 16#8))
    (fun f => f == .stackOverflow (((boot 0x2300).setSp 16#8).setPc 0x202#16)) = true := by decide
/-- T6. -/
theorem test_ret : okThen (step ((boot 0x00EE).setStack 0 0x0ABC#16 1#8))
    (fun t => t.pc == 0x0ABC#16 && t.sp == 0#8 && t.slot 0 == 0x0ABC#16) = true := by decide
/-- T7. -/
theorem test_ret_underflow : faultThen (step (boot 0x00EE)) (fun f => f == .stackUnderflow ((boot 0x00EE).setPc 0x202#16)) = true := by
  decide
/-- T10, T11. -/
theorem test_seImm : pcAfter ((boot 0x332A).setReg 3 0x2A#8) 0x204#16 = true ∧ pcAfter ((boot 0x332A).setReg 3 0x2B#8) 0x202#16 = true := by
  decide
/-- T12, T13. -/
theorem test_sneImm : pcAfter ((boot 0x432A).setReg 3 0x2A#8) 0x202#16 = true ∧ pcAfter (boot 0x432A) 0x204#16 = true := by decide
/-- T14, T15. -/
theorem test_seReg : pcAfter (((boot 0x5120).setReg 1 7#8).setReg 2 7#8) 0x204#16 = true ∧
    pcAfter (((boot 0x5120).setReg 1 7#8).setReg 2 8#8) 0x202#16 = true := by decide
/-- T17, T18. -/
theorem test_sneReg : pcAfter (((boot 0x9120).setReg 1 7#8).setReg 2 8#8) 0x204#16 = true ∧
    pcAfter ((boot 0x9110).setReg 1 7#8) 0x202#16 = true := by decide
/-- T19: a skip from the last slot. -/
theorem test_skip_at_top : pcAfter (((State.reset.setPc 0xFFE#16).withFetchWord 16 0x3F01).setReg 15 1#8) 0x1002#16 = true := by decide

/-! ### Load, arithmetic, logic, shift, random -/

/-- A1. -/
theorem test_ldImm : okThen (step (boot 0x6A7F)) (fun t => t.reg 10 == 0x7F#8 && t.pc == 0x202#16) = true := by decide
/-- A2. -/
theorem test_addImm : okThen (step (((boot 0x7102).setReg 1 0xFF#8).setReg 15 0x55#8))
    (fun t => t.reg 1 == 0x01#8 && t.reg 15 == 0x55#8) = true := by decide
/-- A4. -/
theorem test_ldReg : okThen (step ((boot 0x8120).setReg 2 0x33#8)) (fun t => t.reg 1 == 0x33#8 && t.reg 2 == 0x33#8) = true := by decide
/-- A5. -/
theorem test_or : okThen (step ((((boot 0x8121).setReg 1 0xF0#8).setReg 2 0x0F#8).setReg 15 1#8))
    (fun t => t.reg 1 == 0xFF#8 && t.reg 15 == 1#8) = true := by decide
/-- A7: the quirk, with VF the destination. -/
theorem test_or_quirk : okThen (step (((bootOther 0x8F21).setReg 15 0x81#8).setReg 2 0x0E#8)) (fun t => t.reg 15 == 0#8) = true := by decide
/-- A9. -/
theorem test_and : okThen (step (((boot 0x8122).setReg 1 0xF3#8).setReg 2 0x3F#8)) (fun t => t.reg 1 == 0x33#8) = true := by decide
/-- A10. -/
theorem test_xor : okThen (step (((boot 0x8123).setReg 1 0xFF#8).setReg 2 0x0F#8)) (fun t => t.reg 1 == 0xF0#8) = true := by decide
/-- A12. -/
theorem test_add : okThen (step (((boot 0x8124).setReg 1 0xFF#8).setReg 2 0x01#8)) (fun t => t.reg 1 == 0#8 && t.reg 15 == 1#8) = true := by
  decide
/-- A14: VF is the destination. -/
theorem test_add_vf : okThen (step (((boot 0x8F14).setReg 15 0xF0#8).setReg 1 0x20#8)) (fun t => t.reg 15 == 1#8) = true := by decide
/-- A18. -/
theorem test_sub : okThen (step (((boot 0x8125).setReg 1 5#8).setReg 2 7#8)) (fun t => t.reg 1 == 0xFE#8 && t.reg 15 == 0#8) = true := by
  decide
/-- A20: equal operands. -/
theorem test_sub_equal : okThen (step (((boot 0x8125).setReg 1 5#8).setReg 2 5#8)) (fun t => t.reg 1 == 0#8 && t.reg 15 == 1#8) = true := by
  decide
/-- A23. -/
theorem test_shr : okThen (step (((boot 0x8126).setReg 1 3#8).setReg 2 0xF0#8))
    (fun t => t.reg 1 == 1#8 && t.reg 15 == 1#8 && t.reg 2 == 0xF0#8) = true := by decide
/-- A27. -/
theorem test_subn : okThen (step (((boot 0x8127).setReg 1 7#8).setReg 2 5#8)) (fun t => t.reg 1 == 0xFE#8 && t.reg 15 == 0#8) = true := by
  decide
/-- A29. -/
theorem test_shl : okThen (step (((boot 0x812E).setReg 1 0x81#8).setReg 2 0x0F#8))
    (fun t => t.reg 1 == 2#8 && t.reg 15 == 1#8 && t.reg 2 == 0x0F#8) = true := by decide
/-- A33: the one Cxnn whose result is determined; the free value is masked away. -/
theorem test_rnd_zero : ∃ t, step ((boot 0xC300).setReg 3 0xFF#8) = .next t ∧ t.reg 3 = 0#8 ∧ t.draws = 1 :=
  ⟨_, rfl, show Config.rand 0 &&& 0#8 = 0#8 from BitVec.and_zero, rfl⟩

/-! ### Index register and memory -/

/-- M1. -/
theorem test_ldI : okThen (step (boot 0xA2F0)) (fun t => t.idx == 0x2F0#16) = true := by decide
/-- M2, M3. -/
theorem test_addI : okThen (step (((boot 0xF11E).setReg 1 2#8).setIdx 0xFFF#16)) (fun t => t.idx == 0x1001#16 && t.reg 15 == 0#8) = true ∧
    okThen (step (((boot 0xF11E).setReg 1 2#8).setIdx 0xFFFF#16)) (fun t => t.idx == 0x0001#16) = true := by decide
/-- M5. -/
theorem test_ldF : okThen (step ((boot 0xF229).setReg 2 0x1A#8)) (fun t => t.idx == 0x082#16) = true := by decide
/-- M6: FONT_BASE 0x000. -/
theorem test_ldF_base : okThen (step ((bootOther 0xF229).setReg 2 0x0F#8)) (fun t => t.idx == 0x04B#16) = true := by decide
/-- M7. -/
theorem test_ldB : okThen (step (((boot 0xF133).setReg 1 0xFE#8).setIdx 0x300#16))
    (fun t => t.byteAt 0x300 == 2#8 && t.byteAt 0x301 == 5#8 && t.byteAt 0x302 == 4#8 && t.idx == 0x300#16) = true := by decide
/-- M10. -/
theorem test_ldB_fault : faultThen (step (((boot 0xF133).setReg 1 0x64#8).setIdx 0xFFE#16))
    (fun f => f == .memoryFault 0x1000 ((((boot 0xF133).setReg 1 0x64#8).setIdx 0xFFE#16).setPc 0x202#16)) = true := by decide
/-- M13: QUIRK_MEM_INC_I. -/
theorem test_store : okThen (step (((((bootOther 0xF255).setReg 0 0x11#8).setReg 1 0x22#8).setReg 2 0x33#8).setIdx 0x400#16))
    (fun t => t.byteAt 0x400 == 0x11#8 && t.byteAt 0x401 == 0x22#8 && t.byteAt 0x402 == 0x33#8 && t.byteAt 0x403 == 0#8 &&
      t.idx == 0x403#16) = true := by decide
/-- M15. -/
theorem test_store_fault : faultThen (step (((boot 0xFF55).setReg 0 1#8).setIdx 0xFF1#16))
    (fun f => f == .memoryFault 0x1000 ((((boot 0xFF55).setReg 0 1#8).setIdx 0xFF1#16).setPc 0x202#16)) = true := by decide
/-- M16. -/
theorem test_load : okThen (step ((((boot 0xF265).setReg 3 0x99#8).setIdx 0x400#16).setBytes 0x400 [0x11#8, 0x22#8, 0x33#8, 0x44#8]))
    (fun t => t.reg 0 == 0x11#8 && t.reg 1 == 0x22#8 && t.reg 2 == 0x33#8 && t.reg 3 == 0x99#8 && t.idx == 0x400#16) = true := by decide
/-- M18. -/
theorem test_load_fault : faultThen (step ((boot 0xF165).setIdx 0xFFF#16))
    (fun f => f == .memoryFault 0x1000 (((boot 0xF165).setIdx 0xFFF#16).setPc 0x202#16)) = true := by decide

/-! ### Display -/

/-- G1. -/
theorem test_cls : okThen (step (((boot 0x00E0).setReg 15 1#8).setDisplay ((Display.clear.setPixel 31 63 true).setPixel 0 0 true)))
    (fun t => !t.display.pixel 31 63 && !t.display.pixel 0 0 && t.reg 15 == 1#8) = true := by decide
/-- G2: wrap at the right edge. -/
theorem test_drw_wrap : okThen (step ((((boot 0xD121).setReg 1 60#8).setIdx 0x300#16).setByte 0x300 0xFF#8))
    (fun t => [60, 61, 62, 63, 0, 1, 2, 3].all (fun x => t.display.pixel 0 x) && !t.display.pixel 0 4 && t.reg 15 == 0#8) = true := by
  decide
/-- G6: a partial overlap. -/
theorem test_drw_collision : okThen (step ((((boot 0xD121).setIdx 0x300#16).setByte 0x300 0xC0#8).setDisplay
    (Display.clear.setPixel 0 1 true)))
    (fun t => t.display.pixel 0 0 && !t.display.pixel 0 1 && !t.display.pixel 0 2 && t.reg 15 == 1#8) = true := by decide
/-- E8: the glyph of digit 1 at the origin; the pixels of its five rows, left to right. -/
theorem test_font_glyph : okThen (step ((boot 0xD005).setIdx 0x055#16))
    (fun t => [(0, [2]), (1, [1, 2]), (2, [2]), (3, [2]), (4, [1, 2, 3])].all fun (row : Fin 32 × List (Fin 64)) =>
      [0, 1, 2, 3, 4].all fun x => t.display.pixel row.1 x == row.2.contains x) = true := by decide

/-! ### Keypad, timers, key wait -/

/-- K3, K2. -/
theorem test_skp : pcAfter (((boot 0xE19E).setReg 1 0x15#8).setKeyFlag 5 true) 0x204#16 = true ∧
    pcAfter ((boot 0xE19E).setReg 1 5#8) 0x202#16 = true := by decide
/-- K4, K5. -/
theorem test_sknp : pcAfter ((boot 0xE1A1).setReg 1 5#8) 0x204#16 = true ∧
    pcAfter (((boot 0xE1A1).setReg 1 5#8).setKeyFlag 5 true) 0x202#16 = true := by decide
/-- K7: the lowest of two keys. -/
theorem test_ldVxK : okThen (step (((boot 0xF30A).setKeyFlag 11 true).setKeyFlag 4 true))
    (fun t => t.reg 3 == 4#8 && !t.waiting && t.pc == 0x202#16) = true := by decide
/-- K8. -/
theorem test_ldVxK_wait : okThen (step (boot 0xF30A)) (fun t => t.waiting && t.waitX == 3 && t.pc == 0x202#16) = true := by decide
/-- K10. -/
theorem test_wait_ends : okThen (step (((State.reset.startWait 3).setReg 3 0xEE#8).setKeyFlag 0 true))
    (fun t => t.reg 3 == 0#8 && !t.waiting && t.pc == 0x200#16) = true := by decide
/-- K9. -/
theorem test_wait_goes_on : okThen (step (State.reset.startWait 3)) (fun t => t == State.reset.startWait 3) = true := by decide
/-- K11. -/
theorem test_ldVxDt : okThen (step ((boot 0xF407).setDt 0x28#8)) (fun t => t.reg 4 == 0x28#8) = true := by decide
/-- K12. -/
theorem test_ldDtVx : okThen (step ((boot 0xF415).setReg 4 0x64#8)) (fun t => t.dt == 0x64#8 && t.st == 0#8) = true := by decide
/-- K13. -/
theorem test_ldStVx : okThen (step ((boot 0xF418).setReg 4 2#8)) (fun t => t.st == 2#8 && soundActive t) = true := by decide
/-- K16, K17. -/
theorem test_tick : (tick (State.reset.setDt 0x64#8)).dt = 0x63#8 ∧ (tick (State.reset.setSt 1#8)).st = 0#8 ∧ (tick State.reset).dt = 0#8 := by
  decide

/-! ### Host operations, reset -/

/-- L2, L4, L5. -/
theorem test_loadProgram : okThen (loadProgram [0xAB#8] 0xFFF State.reset) (fun t => t.byteAt 0xFFF == 0xAB#8) = true ∧
    faultThen (loadProgram [0xAB#8] 0x1000 State.reset) (fun f => f == .outOfSpace State.reset) = true := by decide
/-- L8. -/
theorem test_reset_memory : State.reset.byteAt 0x050 = 0xF0#8 ∧ State.reset.byteAt 0x09F = 0x80#8 ∧ State.reset.byteAt 0x04F = 0#8 ∧
    State.reset.byteAt 0x0A0 = 0#8 ∧ State.reset.byteAt 0x200 = 0#8 ∧ font.length = 80 := by decide
/-- R152, R154: under `skip` an illegal word is passed over. -/
theorem test_skip_policy : okThen (step (bootOther 0x0000)) (fun t => t == (bootOther 0x0000).setPc 0x202#16) = true := by decide
/-- withFetchWord from a state that waits and whose PC cannot be fetched from. -/
theorem test_withFetchWord : okThen (step (((State.reset.startWait 3).setPc 0xFFF#16).withFetchWord 16 0x6A7F))
    (fun t => t.reg 10 == 0x7F#8) = true := by decide

/-! ### Witnesses: for each statement of Obligations.lean with hypotheses, a state and operands that meet them, clause by clause -/

theorem wit_EncodeInvertsDecode : decode 0xFFFF#16 ≠ .ok .cls ∧ decode 0x8FFE#16 = .ok (.shl 15 15) := by decide
theorem wit_DecodeIsTheOpcodeMap : (⟨"SKP_Vx", 0xF0FF, 0xE09E⟩ : OpcodeRow) ∈ opcodeTable ∧ 0xEF9E#16 &&& 0xF0FF#16 = 0xE09E#16 ∧
    decode 0xEF9E#16 = .ok (.skp 15) := by decide
theorem wit_StepRunsTheDecodedInstruction : (boot 0x6A7F).fetches 0x6A7F#16 ∧ decode 0x6A7F#16 = .ok (.ldImm 10 0x7F#8) := by decide
theorem wit_FetchIsBigEndianOrFaults : (State.reset.setPc 4094#16).pc.toNat ≤ 4094 ∧ 4094 < (State.reset.setPc 4095#16).pc.toNat ∧
    (State.reset.setPc 4095#16).waiting = false := by decide
theorem wit_FaultsArePrecise :
    cycle (State.reset.setPc 4095#16) = .fault (.memoryFault 4096 (State.reset.setPc 4095#16)) ∧
    cycle State.reset = .fault (.unknownOpcode 0#16 (State.reset.setPc 0x202#16)) := ⟨rfl, rfl⟩
theorem wit_FaultPolicyDecides :
    (cycle (boot 0x00EE) = .fault (.stackUnderflow (boot 0x00EE).advance) ∧ (boot 0x00EE).cfg.faultPolicy = .halt) ∧
    (cycle (bootOther 0x00EE) = .fault (.stackUnderflow (bootOther 0x00EE).advance) ∧ (bootOther 0x00EE).cfg.faultPolicy = .skip) ∧
    cycle (boot 0x1ABC) = .next ((boot 0x1ABC).setPc 0xABC#16) := ⟨⟨rfl, rfl⟩, ⟨rfl, rfl⟩, rfl⟩
theorem wit_NothingIsRefused : (State.reset.setSp 16#8).sp.toNat ≤ 16 := by decide
theorem wit_KeyWaitStep : (State.reset.startWait 3).waiting = true ∧ (∀ k, (State.reset.startWait 3).pressed k = false) ∧
    ((State.reset.startWait 3).setKeyFlag 15 true).pressed 15 = true ∧
    ∀ j, j < 15 → ((State.reset.startWait 3).setKeyFlag 15 true).pressed j = false := by decide
theorem wit_SelfJumpIsStable : (boot 0x1200).atSelfJump := ⟨0x200#12, by decide, by decide⟩
theorem wit_StepKeepsInvariant : ((boot 0x00EE).setStack 0 0x0ABC#16 1#8).Inv ∧
    okThen (step ((boot 0x00EE).setStack 0 0x0ABC#16 1#8)) (fun _ => true) = true := by decide
theorem wit_ResetMeetsInvariant : Config.wellFormed { otherConfig with programOrigin := 0xFFE#16 } = true := by decide
/-- Under halt, a load that fits and one that does not, and a step that faults. -/
theorem wit_EveryOperationKeepsInvariant : State.reset.Inv ∧ State.reset.cfg.wellFormed = true ∧
    okThen (perform (.loadProgram [0x12#8, 0x00#8] 0x200) State.reset) (fun t => !t.mem.isEmpty) = true ∧
    perform (.loadProgram [0xAB#8] 0x1000) State.reset = .fault (.outOfSpace State.reset) ∧
    perform .step State.reset = .fault (.unknownOpcode 0#16 State.reset.advance) :=
  ⟨by decide, by decide, by decide, rfl, rfl⟩
theorem wit_EveryHistoryKeepsInvariant : Config.wellFormed otherConfig = true := by decide
theorem wit_PcStaysEven : (boot 0x1ABC).EvenPc ∧ (boot 0x1ABC).sp.toNat ≤ 16 ∧ evenTarget (.jp 0xABC#12) (boot 0x1ABC).advance ∧
    step (boot 0x1ABC) = .next ((boot 0x1ABC).setPc 0xABC#16) :=
  ⟨by decide, by decide, (by decide : (0xABC#12).toNat % 2 = 0), rfl⟩
theorem wit_PcStaysEven_all (w : Opcode) (i : Instr) (h : (boot 0x1ABC).fetches w) (hd : decode w = .ok i) :
    evenTarget i (boot 0x1ABC).advance := by
  have hw : w = 0x1ABC#16 := h.2.2.trans (by decide)
  rw [hw, show decode 0x1ABC#16 = .ok (.jp 0xABC#12) by decide] at hd
  injection hd with hd
  subst hd
  exact (by decide : (0xABC#12).toNat % 2 = 0)
theorem wit_PcOfEveryOtherInstruction : exec (.skp 0) State.reset = .next State.reset ∧ (State.reset.startWait 3).waiting = true ∧
    cycle (State.reset.startWait 3) = .next (State.reset.startWait 3) := ⟨rfl, rfl, rfl⟩
theorem wit_StepsLeaveKeypadAndParameters : cycle (boot 0x1ABC) = .next ((boot 0x1ABC).setPc 0xABC#16) ∧
    cycle State.reset = .fault (.unknownOpcode 0#16 State.reset.advance) := ⟨rfl, rfl⟩
theorem wit_DisplayAndMemoryWriters : exec .cls State.reset = .next State.reset := rfl
theorem wit_IndexAndStackWriters : exec (.call 0x300#12) State.reset =
    .next ((State.reset.setStack 0 0x200#16 1#8).setPc 0x300#16) := rfl
theorem wit_TimerAndWaitWriters : exec (.ldVxK 3) State.reset = .next (State.reset.startWait 3) := rfl
theorem wit_VfWriters : exec (.ldImm VF 1#8) State.reset = .next (State.reset.setReg 15 1#8) := rfl
theorem wit_DisplayIsNotReadBack : (∀ x y n, Instr.cls ≠ Instr.drw x y n) ∧ exec .cls State.reset = .next State.reset :=
  ⟨fun _ _ _ => Instr.noConfusion, rfl⟩
theorem wit_HiddenStateIsNotObserved : exec (.ldI 0x300#12) State.reset = .next (State.reset.setIdx 0x300#16) ∧
    State.reset.sp.toNat ≤ (0 : Fin 16).val := ⟨rfl, by decide⟩
theorem wit_JumpsSetPc : (0xFFF#12).toNat = 0xFFF ∧ State.reset.waiting = false ∧ 4094 < (0xFFF#12).toNat + (State.reset.reg 0).toNat := by
  decide
theorem wit_CallPushesOrOverflows : (State.reset.setSp 15#8).sp.toNat = (15 : Fin 16).val ∧ (State.reset.setSp 16#8).sp.toNat = 16 := by
  decide
theorem wit_ReturnPopsOrUnderflows : (State.reset.setSp 16#8).sp.toNat = (15 : Fin 16).val + 1 ∧ State.reset.sp.toNat = 0 := by decide
theorem wit_ReturnFollowsCall : exec (.call 0x300#12) State.reset =
    .next ((State.reset.setStack 0 0x200#16 1#8).setPc 0x300#16) ∧
    (((State.reset.setStack 0 0x200#16 1#8).setPc 0x300#16).setReg 4 7#8).sp = 1#8 := ⟨rfl, rfl⟩
theorem wit_LogicAndTheVfQuirk : State.reset.cfg.quirkVfReset = false ∧ (bootOther 0x8121).cfg.quirkVfReset = true ∧ (1 : Reg) ≠ VF := by
  decide
theorem wit_SkipsOnRegisters : (15 : Reg) = 15 := rfl
/-- The destinations of AddImmediateWrapsWithoutFlag, LogicAndTheVfQuirk and the flag writers: any register but VF. -/
theorem wit_flag_destination : (14 : Reg) ≠ VF ∧ (0 : Reg) ≠ VF := by decide
theorem wit_RandomIsMaskedDraw : (0x0F#8).getLsbD 4 = false ∧ (1 : Reg) ≠ 0 := by decide
theorem wit_BcdStoresThreeDigits : (State.reset.setIdx 4093#16).idx.toNat + 2 ≤ 4095 ∧ 4095 < (State.reset.setIdx 4094#16).idx.toNat + 2 := by
  decide
theorem wit_StoreAndLoadRegisters : (State.reset.setIdx 4080#16).idx.toNat + (15 : Reg).val ≤ 4095 ∧
    4095 < (State.reset.setIdx 4081#16).idx.toNat + (15 : Reg).val ∧ State.reset.pc.toNat ≤ 4094 := by decide
theorem wit_LoadRestoresStoredRegisters : exec (.storeRegs 0) (State.reset.setIdx 4095#16) = .next (State.reset.setIdx 4095#16) := rfl
theorem wit_StoredOpcodeIsFetched : exec (.storeRegs 1) (State.reset.setIdx 0x200#16) = .next (State.reset.setIdx 0x200#16) ∧
    1 ≤ (1 : Reg).val ∧ (State.reset.setIdx 0x200#16).pc = (State.reset.setIdx 0x200#16).idx ∧
    (State.reset.setIdx 0x200#16).waiting = false := ⟨rfl, by decide, rfl, rfl⟩
theorem wit_ByteReadsAndWrites : (4095 ≤ 4095) ∧ (4095 < 4096) ∧ Memory.wf State.reset.cfg.fontBase.val State.reset.mem = true := by decide
/-- With a program loaded whose first instruction is Fx29. -/
theorem wit_FontSpriteIsAtIndex : (boot 0xF229).fetches 0xF229#16 ∧
    ∀ k < 80, (boot 0xF229).byteAt ((boot 0xF229).cfg.fontBase.val + k) = font.getD k 0x00#8 := by decide
/-- The tone is on after Fx18 with 1, so that the tick that turns it off is not empty. -/
theorem wit_TimerInstructions : (State.reset.setReg 4 1#8).reg 4 = 0x01#8 ∧
    okThen (exec (.ldStVx 4) (State.reset.setReg 4 1#8)) soundActive = true := by decide
theorem wit_DrawXorsAndReportsCollision : (0#4).toNat = 0 ∧ (State.reset.setIdx 4081#16).idx.toNat + (15#4).toNat - 1 ≤ 4095 ∧
    1 ≤ (15#4).toNat ∧ 4095 < (State.reset.setIdx 4082#16).idx.toNat + (15#4).toNat - 1 := by decide
theorem wit_draw_pixels : (State.reset.setIdx 0x50#16).spriteCovers 0 1 5#4 4 3 ∧
    (((State.reset.setIdx 0x50#16).setDisplay (Display.clear.setPixel 4 3 true)).display.pixel 4 3 = true) ∧
    ¬(State.reset.setIdx 0x50#16).spriteCovers 0 1 0#4 0 0 :=
  ⟨⟨4, 3, by decide, by decide, by decide, by decide, by decide⟩, by decide, fun ⟨_, _, h, _⟩ => absurd h (Nat.not_lt_zero _)⟩
theorem wit_DrawTwiceRestores : (0 : Reg) ≠ VF ∧ (1 : Reg) ≠ VF ∧
    okThen (exec (.drw 0 1 5#4) (State.reset.setIdx 0x50#16)) (fun t => t.display.pixel 0 0) = true := by decide
theorem wit_KeypadSkips : (5 : Reg).val = ((State.reset.setReg 1 0x15#8).reg 1).toNat % 16 := by decide
theorem wit_KeyLoadTakesLowestOrWaits : (State.reset.setKeyFlag 0 true).pressed 0 = true ∧
    (∀ j, j < 0 → (State.reset.setKeyFlag 0 true).pressed j = false) ∧ ∀ k, State.reset.pressed k = false := by decide
theorem wit_KeypadOperations : 15 < 16 := by decide
theorem wit_LoadProgramWritesItsBytes : 0xFFF + [0xAB#8].length ≤ 4096 ∧ 4096 < 0x1000 + [0xAB#8].length := by decide
theorem wit_ResetState : (0 : Nat) < 80 ∧ 79 < State.reset.cfg.fontBase.val ∧ State.reset.cfg.fontBase.val + 80 ≤ 0xA0 := by decide

end Sys2Proof.Tests
end

section
/-! PROOFS. The invariant of every run (`State.Inv`) and the parameters are kept by every operation of the outside world, and so
they hold along every history (00_scope.md R6). What a `Step()` leaves is said once, for a next state and for a fault; each
operation then keeps the invariant by a lemma of its own. -/

namespace Sys2Proof.Machine

/-! ### What a step leaves -/

/-- An instruction that faults leaves the state it ran on (R152). -/
theorem exec_fault_after {i : Instr} {s : State} {f : Fault} (h : exec i s = .fault f) : f.after = s := by
  cases i <;> simp only [exec] at h
  case call nnn =>
    unfold execCall at h
    split at h
    · cases h; rfl
    · split at h <;> cases h
  case ret =>
    unfold execRet at h
    split at h
    · cases h; rfl
    · split at h <;> cases h
  case ldVxK x =>
    unfold execLdVxK at h
    split at h <;> cases h
  case drw x y n => rw [(withRange_fault h).1]; rfl
  case ldB x => rw [(withRange_fault h).1]; rfl
  case storeRegs x => rw [(withRange_fault h).1]; rfl
  case loadRegs x => rw [(withRange_fault h).1]; rfl
  all_goals cases h

/-- The next state of a step is that of the key wait, or of an instruction run on the advanced state (R62). -/
theorem cycle_next {s t : State} (h : cycle s = .next t) :
    t = keyWait s ∨ (s.pc.toNat ≤ 4094 ∧ Effect s.advance t) := by
  obtain ⟨-, hc⟩ | ⟨-, -, hc⟩ | ⟨w, hw, ⟨-, hc⟩ | ⟨i, -, hc⟩⟩ := cycle_cases s <;> rw [hc] at h
  · cases h; exact .inl rfl
  · cases h
  · cases h
  · exact .inr ⟨hw.2.1, exec_effect h⟩

/-- A step that faults leaves the state as it was, when the fetch faulted, or with PC advanced and nothing else changed (R152). -/
theorem cycle_fault_after {s : State} {f : Fault} (h : cycle s = .fault f) :
    f.after = s ∨ (s.pc.toNat ≤ 4094 ∧ f.after = s.advance) := by
  obtain ⟨-, hc⟩ | ⟨-, -, hc⟩ | ⟨w, hw, ⟨-, hc⟩ | ⟨i, -, hc⟩⟩ := cycle_cases s <;> rw [hc] at h
  · cases h
  · cases h; exact .inl rfl
  · cases h; exact .inr ⟨hw.2.1, rfl⟩
  · exact .inr ⟨hw.2.1, exec_fault_after h⟩

/-! ### The parameters -/

/-- No instruction changes the parameters (R25). -/
theorem Effect.cfg_eq {s t : State} (h : Effect s t) : t.cfg = s.cfg := by
  cases h
  case call h nnn e => rw [e]; rfl
  case ret h0 h e => rw [e]; rfl
  all_goals rename t = _ => h; rw [h]

@[simp] theorem keyWait_cfg (s : State) : (keyWait s).cfg = s.cfg := by
  rw [keyWait_eq]

/-! ### The invariant -/

/-- The invariant after reset, for every legal PROGRAM_ORIGIN (R30, R16). -/
theorem resetWith_inv {c : Config} (hc : c.wellFormed = true) : (State.resetWith c).Inv := by
  have hpc : c.programOrigin.toNat ≤ 0xFFE := by simpa [Config.wellFormed, BitVec.le_def] using hc
  exact ⟨rfl, Nat.zero_le _, hpc.trans (by decide), fun k hk => absurd hk (Nat.not_lt_zero _)⟩

/-- The fetch keeps the invariant: it leaves PC at most 0x1000. -/
theorem advance_inv {s : State} (hs : s.Inv) (hpc : s.pc.toNat ≤ 4094) : s.advance.Inv := by
  obtain ⟨hmem, hsp, -, hslots⟩ := hs
  refine ⟨hmem, hsp, ?_, hslots⟩
  rw [State.advance_pc, toNat_add2 hpc]
  omega

theorem keyWait_inv {s : State} (hs : s.Inv) : (keyWait s).Inv := by
  rw [keyWait_eq]
  exact hs

/-- CALL keeps the invariant: the return address it pushes is the advanced PC, at most 0x1000 (R82). -/
theorem call_inv {s : State} (hs : s.Inv) (hpc : s.pc.toNat ≤ 0x1000) (h : s.sp.toNat < 16) (nnn : Addr12) :
    ((s.setStack ⟨s.sp.toNat, h⟩ s.pc (s.sp + 1#8)).setPc (addr16 nnn)).Inv := by
  obtain ⟨hmem, -, -, hslots⟩ := hs
  have hsp : (s.sp + 1#8).toNat = s.sp.toNat + 1 := by simp [BitVec.toNat_add]; omega
  refine ⟨hmem, by simp only [State.setPc_sp, State.setStack_sp]; omega, ?_, fun k hk => ?_⟩
  · have := nnn.isLt
    simp only [State.setPc_pc, toNat_addr16]
    omega
  · simp only [State.setPc_sp, State.setStack_sp, hsp] at hk
    rw [State.setPc_slot, State.slot_setStack]
    split
    · exact hpc
    next hne => exact hslots k (by have := Fin.val_ne_of_ne hne; simp only at this; omega)

/-- RET keeps the invariant: PC takes a live return address, and the slots below it stay live (R84). -/
theorem ret_inv {s : State} (hs : s.Inv) (h0 : 0 < s.sp.toNat) (h : s.sp.toNat - 1 < 16) :
    ((s.setSp (s.sp - 1#8)).setPc (s.slot ⟨s.sp.toNat - 1, h⟩)).Inv := by
  obtain ⟨hmem, -, -, hslots⟩ := hs
  have hsp : (s.sp - 1#8).toNat = s.sp.toNat - 1 := by
    have := s.sp.isLt
    simp [BitVec.toNat_sub]; omega
  have htop : (s.slot ⟨s.sp.toNat - 1, h⟩).toNat ≤ 0x1000 := hslots _ (by simp only; omega)
  refine ⟨hmem, ?_, htop.trans (by decide), fun k hk => ?_⟩
  · simp only [State.setPc_sp, State.setSp_sp]
    omega
  · simp only [State.setPc_sp, State.setSp_sp, hsp] at hk
    exact hslots k (by omega)

/-- Every instruction keeps the invariant, run where the fetch has left PC: at most 0x1000 (R16, R17, R82). -/
theorem Effect.inv {s t : State} (h : Effect s t) (hs : s.Inv) (hpc : s.pc.toNat ≤ 0x1000) : t.Inv := by
  cases h
  case call h nnn e => exact e ▸ call_inv hs hpc h nnn
  case ret h0 h e => exact e ▸ ret_inv hs h0 h
  case pc h hp =>
    obtain ⟨hmem, hsp, -, hslots⟩ := hs
    have hpc' : t.pc.toNat ≤ 0x10FE := by
      rcases hp with hp | hp | hp
      · exact hp
      · rw [hp]; omega
      · rw [hp, BitVec.toNat_add]; simp; omega
    rw [h]
    exact ⟨hmem, hsp, hpc', hslots⟩
  case mem h hw =>
    obtain ⟨hmem, hrest⟩ := hs
    rw [h]
    exact ⟨hw hmem, hrest⟩
  all_goals rename t = _ => h; rw [h]; exact hs

/-- A step that answers a next state keeps the invariant and the parameters. -/
theorem cycle_next_inv {s t : State} (hs : s.Inv) (h : cycle s = .next t) : t.Inv ∧ t.cfg = s.cfg := by
  obtain rfl | ⟨hpc, he⟩ := cycle_next h
  · exact ⟨keyWait_inv hs, keyWait_cfg s⟩
  · have hpc' : s.advance.pc.toNat ≤ 0x1000 := by rw [State.advance_pc, toNat_add2 hpc]; omega
    exact ⟨he.inv (advance_inv hs hpc) hpc', he.cfg_eq⟩

/-- The state of R152 after a step that faults keeps the invariant and the parameters. -/
theorem cycle_fault_inv {s : State} {f : Fault} (hs : s.Inv) (h : cycle s = .fault f) : f.after.Inv ∧ f.after.cfg = s.cfg := by
  obtain he | ⟨hpc, he⟩ := cycle_fault_after h <;> rw [he]
  · exact ⟨hs, rfl⟩
  · exact ⟨advance_inv hs hpc, rfl⟩

/-! ### The operations of the outside world -/

theorem settle_cycle_inv {s : State} (hs : s.Inv) : (settle s (cycle s)).Inv ∧ (settle s (cycle s)).cfg = s.cfg := by
  cases h : cycle s with
  | next t => exact cycle_next_inv hs h
  | fault f => exact cycle_fault_inv hs h
  | refused r => exact ⟨hs, rfl⟩

/-- A load keeps the invariant, whether it fits in memory or is `OutOfSpace` (R50). -/
theorem settle_loadProgram_inv {s : State} (hs : s.Inv) (bytes : List Byte) (origin : Nat) :
    (settle s (loadProgram bytes origin s)).Inv ∧ (settle s (loadProgram bytes origin s)).cfg = s.cfg := by
  unfold loadProgram
  split
  · exact ⟨hs, rfl⟩
  next hfits =>
    obtain ⟨hmem, hrest⟩ := hs
    have hwf := State.setBytes_wf hmem (Nat.not_lt.1 hfits)
    rw [settle_next, State.setBytes_eq]
    exact ⟨⟨hwf, hrest⟩, rfl⟩

/-- A key flag is no part of the invariant, and a key outside the contract changes nothing (R165). -/
theorem settle_setKey_inv {s : State} (hs : s.Inv) (index : Nat) (pressed : Bool) :
    (settle s (setKey index pressed s)).Inv ∧ (settle s (setKey index pressed s)).cfg = s.cfg := by
  unfold setKey
  split <;> exact ⟨hs, rfl⟩

/-- Each operation keeps the invariant and the parameters (R6, R16, R17). -/
theorem perform_inv {s : State} (op : Operation) (hs : s.Inv) (hc : s.cfg.wellFormed = true) :
    (settle s (perform op s)).Inv ∧ (settle s (perform op s)).cfg = s.cfg := by
  cases op with
  | reset => exact ⟨resetWith_inv hc, rfl⟩
  | loadProgram bytes origin => exact settle_loadProgram_inv hs bytes origin
  | step => exact settle_cycle_inv hs
  | tick => exact ⟨hs, rfl⟩
  | setKey index pressed => exact settle_setKey_inv hs index pressed
  | snapshot => exact ⟨hs, rfl⟩
  | soundActive => exact ⟨hs, rfl⟩

/-- Every history keeps the invariant and the parameters, from every state that meets it. -/
theorem history_inv {s : State} (ops : List Operation) (hs : s.Inv) (hc : s.cfg.wellFormed = true) :
    (history ops s).Inv ∧ (history ops s).cfg = s.cfg := by
  induction ops generalizing s with
  | nil => exact ⟨hs, rfl⟩
  | cons op ops ih =>
    obtain ⟨hs', hcfg⟩ := perform_inv op hs hc
    obtain ⟨hInv, hcfg'⟩ := ih hs' (hcfg ▸ hc)
    exact ⟨hInv, hcfg'.trans hcfg⟩

/-! ### The obligations -/

/-- Settles O60, by cases on the operation; a step by the shapes of `exec_effect` and the states of R152. -/
theorem everyOperationKeepsInvariant : Obligations.EveryOperationKeepsInvariant :=
  fun _ op hs hc => perform_inv op hs hc

/-- Settles O17, by induction on the list of operations from the reset state. -/
theorem everyHistoryKeepsInvariant : Obligations.EveryHistoryKeepsInvariant :=
  fun _ ops hc => (history_inv ops (resetWith_inv hc) hc).1

end Sys2Proof.Machine
end

section
/-! PROOFS. The invariant along one step and at reset (10_state.md R16, R17, R30), the state after `Reset()`, and what no step
changes (R21, R25). -/

namespace Sys2Proof.Machine

/-! ### Content that reset fixes -/

@[simp] theorem Memory.read_nil (base a : Nat) : Memory.read base [] a = resetByte base a := rfl

/-- R24, R30: the font after reset, from FONT_BASE on. -/
theorem resetByte_font {base k : Nat} (hk : k < 80) : resetByte base (base + k) = font.getD k 0x00#8 := by
  rw [resetByte, if_pos ⟨by omega, by omega⟩, Nat.add_sub_cancel_left]

/-- R30: every byte after reset that is not of the font. -/
theorem resetByte_outside {base a : Nat} (ha : a < base ∨ base + 80 ≤ a) : resetByte base a = 0x00#8 := by
  rw [resetByte, if_neg (by omega)]

/-! ### The keypad -/

/-- No instruction writes the keypad (R21). -/
theorem Effect.key_eq {s t : State} (h : Effect s t) : t.key = s.key := by
  cases h
  case call h nnn e => rw [e]; rfl
  case ret h0 h e => rw [e]; rfl
  all_goals rename t = _ => h; rw [h]

@[simp] theorem keyWait_key (s : State) : (keyWait s).key = s.key := by
  rw [keyWait_eq]

/-! ### The obligations -/

/-- Settles O15: what reaches the driver is the answer of `Step()` or, under `skip`, the state of R152; both keep the invariant. -/
theorem stepKeepsInvariant : Obligations.StepKeepsInvariant := by
  intro s t hs h
  obtain hc | ⟨f, hc, -, rfl⟩ := deliver_eq_next h
  · exact (cycle_next_inv hs hc).1
  · exact (cycle_fault_inv hs hc).1

/-- Settles O16: R5's default PROGRAM_ORIGIN is one of those the reset state meets the invariant for. -/
theorem resetMeetsInvariant : Obligations.ResetMeetsInvariant :=
  ⟨resetWith_inv (c := defaultConfig) (by decide), fun _ hc => resetWith_inv hc⟩

/-- Settles O20, by the shapes of `exec_effect` for a next state and the states of R152 for a fault. -/
theorem stepsLeaveKeypadAndParameters : Obligations.StepsLeaveKeypadAndParameters := by
  rintro s t (h | ⟨f, h, rfl⟩)
  · obtain rfl | ⟨-, he⟩ := cycle_next h
    · exact ⟨keyWait_key s, keyWait_cfg s⟩
    · exact ⟨he.key_eq, he.cfg_eq⟩
  · obtain he | ⟨-, he⟩ := cycle_fault_after h <;> rw [he] <;> exact ⟨rfl, rfl⟩

/-- Settles O57: memory is the empty list, so that every byte is `resetByte`'s; the other pieces of state are constant vectors or
the values of `State.resetWith`. -/
theorem resetState : Obligations.ResetState := by
  intro s
  refine ⟨reset s, rfl, fun r => ?regs, rfl, rfl, rfl, fun k => ?slots, rfl, rfl, Display.pixel_clear, fun k => ?keys, rfl, rfl, rfl,
    fun k hk => resetByte_font hk, fun a ha => resetByte_outside ha⟩
  case regs => exact Vector.getElem_replicate r.isLt
  case slots => exact Vector.getElem_replicate k.isLt
  case keys => exact Vector.getElem_replicate k.isLt

end Sys2Proof.Machine
end

section
/-! PROOFS. What each instruction may write, said once: `WithinFrame` for the pieces of state, `WritesReg` for the V registers.
The writers of each piece (10_state.md R12 to R23) are read off them. -/

namespace Sys2Proof.Machine

/-! ### The instructions with more than one answer -/

/-- CALL answers a next state exactly when a slot is free (R82). -/
theorem execCall_next {nnn : Addr12} {s t : State} :
    execCall nnn s = .next t ↔
      ∃ h : s.sp.toNat < 16, (s.setStack ⟨s.sp.toNat, h⟩ s.pc (s.sp + 1#8)).setPc (addr16 nnn) = t := by
  unfold execCall
  split
  next hfull => exact ⟨nofun, fun ⟨h, _⟩ => by omega⟩
  next =>
    split
    next hfree => simp [hfree]
    next hout => exact ⟨nofun, fun ⟨h, _⟩ => absurd h hout⟩

/-- RET answers a next state exactly when an entry is live, in a slot that exists (R84). -/
theorem execRet_next {s t : State} :
    execRet s = .next t ↔
      0 < s.sp.toNat ∧ ∃ h : s.sp.toNat - 1 < 16, (s.setSp (s.sp - 1#8)).setPc (s.slot ⟨s.sp.toNat - 1, h⟩) = t := by
  unfold execRet
  split
  next hempty => exact ⟨nofun, fun ⟨h, _⟩ => by omega⟩
  next hlive =>
    split
    next hslot => simp [hslot, Nat.pos_of_ne_zero hlive]
    next hout => exact ⟨nofun, fun ⟨_, h, _⟩ => absurd h hout⟩

theorem execLdVxK_some {x k : Reg} {s : State} (h : anyPressed s = some k) : execLdVxK x s = .next (s.setReg x (keyByte k)) := by
  rw [execLdVxK, h]

theorem execLdVxK_none {x : Reg} {s : State} (h : anyPressed s = none) : execLdVxK x s = .next (s.startWait x) := by
  rw [execLdVxK, h]

/-- Fx0A takes a pressed key, or with none pressed enters the wait (R145). -/
theorem execLdVxK_next {x : Reg} {s t : State} (h : execLdVxK x s = .next t) :
    (∃ k, anyPressed s = some k ∧ s.setReg x (keyByte k) = t) ∨ (anyPressed s = none ∧ s.startWait x = t) := by
  cases hk : anyPressed s with
  | some k => exact .inl ⟨k, rfl, Host.Outcome.next.inj ((execLdVxK_some hk).symm.trans h)⟩
  | none => exact .inr ⟨rfl, Host.Outcome.next.inj ((execLdVxK_none hk).symm.trans h)⟩

theorem State.skipIf_pc_or (s : State) (c : Bool) : (s.skipIf c).pc = s.pc ∨ (s.skipIf c).pc = s.pc + 2#16 := by
  cases c
  · exact .inl rfl
  · exact .inr rfl

theorem State.incIdx_idx_or (s : State) (x : Reg) : (s.incIdx x).idx = s.idx ∨ s.cfg.quirkMemIncI = true := by
  rw [State.incIdx_idx]
  split
  next hq => exact .inr hq
  next => exact .inl rfl

@[simp] theorem State.storeUpTo_idx (s : State) (x : Reg) : (s.storeUpTo x).idx = s.idx := by rw [State.storeUpTo_eq]

@[simp] theorem State.storeUpTo_cfg (s : State) (x : Reg) : (s.storeUpTo x).cfg = s.cfg := by rw [State.storeUpTo_eq]

@[simp] theorem State.loadUpTo_idx (s : State) (x : Reg) : (s.loadUpTo x).idx = s.idx := by rw [State.loadUpTo_eq]

@[simp] theorem State.loadUpTo_cfg (s : State) (x : Reg) : (s.loadUpTo x).cfg = s.cfg := by rw [State.loadUpTo_eq]

/-! ### The pieces of state -/

/-- The pieces of state that an instruction may write: `t` is `s` but for those. -/
def WithinFrame (i : Instr) (s t : State) : Prop :=
  match i with
  | .jp _ | .jpV0 _ | .seImm _ _ | .sneImm _ _ | .seReg _ _ | .sneReg _ _ | .skp _ | .sknp _ => t = { s with pc := t.pc }
  | .call _ => t = { s with pc := t.pc, sp := t.sp, stack := t.stack }
  | .ret => t = { s with pc := t.pc, sp := t.sp }
  | .ldI _ | .addI _ | .ldF _ => t = { s with idx := t.idx }
  | .ldB _ => t = { s with mem := t.mem }
  | .storeRegs _ => t = { s with idx := t.idx, mem := t.mem }
  | .loadRegs _ => t = { s with v := t.v, idx := t.idx }
  | .cls => t = { s with display := t.display }
  | .drw _ _ _ => t = { s with v := t.v, display := t.display }
  | .ldDtVx _ => t = { s with dt := t.dt }
  | .ldStVx _ => t = { s with st := t.st }
  | .ldVxK _ => t = { s with v := t.v, waiting := t.waiting, waitX := t.waitX }
  | .rnd _ _ => t = { s with v := t.v, draws := t.draws }
  | .ldImm _ _ | .addImm _ _ | .ldReg _ _ | .orReg _ _ | .andReg _ _ | .xorReg _ _ | .addReg _ _ | .subReg _ _ | .shr _ _
  | .subn _ _ | .shl _ _ | .ldVxDt _ => t = { s with v := t.v }

/-- Every next state of an instruction is within its frame. -/
theorem exec_frame {i : Instr} {s t : State} (h : exec i s = .next t) : WithinFrame i s t := by
  cases i
  case call nnn => obtain ⟨_, rfl⟩ := execCall_next.1 h; rfl
  case ret => obtain ⟨_, _, rfl⟩ := execRet_next.1 h; rfl
  case drw x y n => obtain ⟨rfl, -⟩ := withRange_next h; rfl
  case ldB x => obtain ⟨rfl, -⟩ := withRange_next h; exact State.setBytes_eq ..
  case storeRegs x =>
    obtain ⟨rfl, -⟩ := withRange_next h
    rw [WithinFrame, State.incIdx_eq, State.storeUpTo_eq]
  case loadRegs x =>
    obtain ⟨rfl, -⟩ := withRange_next h
    rw [WithinFrame, State.incIdx_eq, State.loadUpTo_eq]
  case ldVxK x => obtain ⟨k, -, rfl⟩ | ⟨-, rfl⟩ := execLdVxK_next h <;> rfl
  all_goals obtain rfl := Host.Outcome.next.inj h
  case orReg | andReg | xorReg => exact State.setLogic_eq ..
  case seImm | sneImm | seReg | sneReg | skp | sknp => exact State.skipIf_eq ..
  all_goals rfl

section
variable {i : Instr} {s t : State} (h : exec i s = .next t)
include h

/-- R15: PC after each instruction, but for the targets of jumps, CALL and RET. -/
theorem exec_pc :
    t.pc = s.pc ∨ i = .ret ∨ (∃ nnn, i = .jp nnn ∨ i = .call nnn ∨ i = .jpV0 nnn) ∨
      ((∃ x nn, i = .seImm x nn ∨ i = .sneImm x nn) ∨ (∃ x y, i = .seReg x y ∨ i = .sneReg x y) ∨
        (∃ x, i = .skp x ∨ i = .sknp x)) ∧ t.pc = s.pc + 2#16 := by
  cases i
  case ret => exact .inr (.inl rfl)
  case jp nnn => exact .inr (.inr (.inl ⟨nnn, .inl rfl⟩))
  case call nnn => exact .inr (.inr (.inl ⟨nnn, .inr (.inl rfl)⟩))
  case jpV0 nnn => exact .inr (.inr (.inl ⟨nnn, .inr (.inr rfl)⟩))
  case seImm | sneImm | seReg | sneReg | skp | sknp =>
    obtain rfl := Host.Outcome.next.inj h
    refine (State.skipIf_pc_or ..).imp_right fun hpc => .inr (.inr ⟨?_, hpc⟩)
    simp
  all_goals exact .inl (by rw [exec_frame h])

theorem exec_display : t.display = s.display ∨ i = .cls ∨ ∃ x y n, i = .drw x y n := by
  cases i
  case cls => exact .inr (.inl rfl)
  case drw x y n => exact .inr (.inr ⟨x, y, n, rfl⟩)
  all_goals exact .inl (by rw [exec_frame h])

/-- R23, R126: the writers of memory, and the 16 bytes from I that they stay within. -/
theorem exec_byteAt :
    (∀ a, t.byteAt a = s.byteAt a) ∨
      ((∃ x, i = .ldB x ∨ i = .storeRegs x) ∧ ∀ a, a < s.idx.toNat ∨ s.idx.toNat + 16 ≤ a → t.byteAt a = s.byteAt a) := by
  cases i
  case ldB x =>
    obtain ⟨rfl, -⟩ := withRange_next h
    refine .inr ⟨⟨x, .inl rfl⟩, fun a ha => ?_⟩
    rw [State.byteAt_setBytes, dif_neg (by simp [bcdDigits, State.ea]; omega)]
  case storeRegs x =>
    obtain ⟨rfl, -⟩ := withRange_next h
    refine .inr ⟨⟨x, .inr rfl⟩, fun a ha => ?_⟩
    rw [State.incIdx_byteAt, State.storeUpTo_byteAt, dif_neg (by simp [State.ea]; omega)]
  all_goals exact .inl fun a => by rw [exec_frame h]; rfl

theorem exec_idx :
    t.idx = s.idx ∨ (∃ nnn, i = .ldI nnn) ∨ (∃ x, i = .addI x ∨ i = .ldF x) ∨
      s.cfg.quirkMemIncI = true ∧ ∃ x, i = .storeRegs x ∨ i = .loadRegs x := by
  cases i
  case ldI nnn => exact .inr (.inl ⟨nnn, rfl⟩)
  case addI x => exact .inr (.inr (.inl ⟨x, .inl rfl⟩))
  case ldF x => exact .inr (.inr (.inl ⟨x, .inr rfl⟩))
  case storeRegs x =>
    obtain ⟨rfl, -⟩ := withRange_next h
    exact ((s.storeUpTo x).incIdx_idx_or x).imp (·.trans (s.storeUpTo_idx x)) fun hq =>
      .inr (.inr ⟨s.storeUpTo_cfg x ▸ hq, x, .inl rfl⟩)
  case loadRegs x =>
    obtain ⟨rfl, -⟩ := withRange_next h
    exact ((s.loadUpTo x).incIdx_idx_or x).imp (·.trans (s.loadUpTo_idx x)) fun hq =>
      .inr (.inr ⟨s.loadUpTo_cfg x ▸ hq, x, .inr rfl⟩)
  all_goals exact .inl (by rw [exec_frame h])

theorem exec_sp : t.sp = s.sp ∨ i = .ret ∨ ∃ nnn, i = .call nnn := by
  cases i
  case ret => exact .inr (.inl rfl)
  case call nnn => exact .inr (.inr ⟨nnn, rfl⟩)
  all_goals exact .inl (by rw [exec_frame h])

theorem exec_stack : t.stack = s.stack ∨ ∃ nnn, i = .call nnn := by
  cases i
  case call nnn => exact .inr ⟨nnn, rfl⟩
  all_goals exact .inl (by rw [exec_frame h])

theorem exec_dt : t.dt = s.dt ∨ ∃ x, i = .ldDtVx x := by
  cases i
  case ldDtVx x => exact .inr ⟨x, rfl⟩
  all_goals exact .inl (by rw [exec_frame h])

theorem exec_st : t.st = s.st ∨ ∃ x, i = .ldStVx x := by
  cases i
  case ldStVx x => exact .inr ⟨x, rfl⟩
  all_goals exact .inl (by rw [exec_frame h])

/-- R145: only an Fx0A that finds no key pressed enters the wait. -/
theorem exec_wait :
    (t.waiting = s.waiting ∧ t.waitX = s.waitX) ∨ ∃ x, i = .ldVxK x ∧ ∀ k, s.pressed k = false := by
  cases i
  case ldVxK x =>
    obtain ⟨k, -, rfl⟩ | ⟨hnone, -⟩ := execLdVxK_next h
    · exact .inl ⟨rfl, rfl⟩
    · exact .inr ⟨x, rfl, anyPressed_none.1 hnone⟩
  all_goals exact .inl ⟨by rw [exec_frame h], by rw [exec_frame h]⟩

end

/-! ### The V registers -/

/-- The V registers that an instruction may write, its destination and VF where it is a flag (R12), under the parameters `c`. -/
def WritesReg (c : Config) (i : Instr) (r : Reg) : Prop :=
  match i with
  | .ldImm x _ | .addImm x _ | .ldReg x _ | .rnd x _ | .ldVxDt x | .ldVxK x => r = x
  | .orReg x _ | .andReg x _ | .xorReg x _ => r = x ∨ c.quirkVfReset = true ∧ r = VF
  | .addReg x _ | .subReg x _ | .shr x _ | .subn x _ | .shl x _ => r = x ∨ r = VF
  | .drw _ _ _ => r = VF
  | .loadRegs x => r.val ≤ x.val
  | _ => False

/-- Every other register is as before. -/
theorem exec_reg_of_not_writesReg {i : Instr} {s t : State} {r : Reg} (h : exec i s = .next t)
    (hr : ¬WritesReg s.cfg i r) : t.reg r = s.reg r := by
  cases i
  case ldImm | addImm | ldReg | rnd | ldVxDt =>
    obtain rfl := Host.Outcome.next.inj h
    exact State.reg_setReg_ne s _ hr
  case ldVxK x =>
    obtain ⟨k, -, rfl⟩ | ⟨-, rfl⟩ := execLdVxK_next h
    · exact State.reg_setReg_ne s _ hr
    · rfl
  case orReg | andReg | xorReg =>
    obtain rfl := Host.Outcome.next.inj h
    obtain ⟨hx, hf⟩ := not_or.1 hr
    rw [State.setLogic_reg, if_neg hf, if_neg hx]
  case addReg | subReg | shr | subn | shl =>
    obtain rfl := Host.Outcome.next.inj h
    obtain ⟨hx, hf⟩ := not_or.1 hr
    rw [State.setWithFlag_reg, if_neg hf, if_neg hx]
  case drw x y n =>
    obtain ⟨rfl, -⟩ := withRange_next h
    exact State.reg_setReg_ne _ _ hr
  case loadRegs x =>
    obtain ⟨rfl, -⟩ := withRange_next h
    have hx : ¬r.val ≤ x.val := hr
    rw [State.incIdx_reg, State.loadUpTo_reg, if_neg hx]
  all_goals rw [exec_frame h]; rfl

/-- R12: the instructions that may write VF. -/
theorem writesReg_VF {c : Config} {i : Instr} (h : WritesReg c i VF) :
    (∃ x y, i = .addReg x y ∨ i = .subReg x y ∨ i = .subn x y ∨ i = .shr x y ∨ i = .shl x y) ∨ (∃ x y n, i = .drw x y n) ∨
      (c.quirkVfReset = true ∧ ∃ x y, i = .orReg x y ∨ i = .andReg x y ∨ i = .xorReg x y) ∨
      (∃ y, i = .ldReg VF y ∨ i = .orReg VF y ∨ i = .andReg VF y ∨ i = .xorReg VF y) ∨
      (∃ nn, i = .ldImm VF nn ∨ i = .addImm VF nn ∨ i = .rnd VF nn) ∨
      i = .ldVxDt VF ∨ i = .ldVxK VF ∨ i = .loadRegs VF := by
  cases i
  case ldImm | addImm | ldReg | rnd | ldVxDt | ldVxK =>
    obtain rfl := h
    simp
  case orReg | andReg | xorReg =>
    obtain rfl | ⟨hq, -⟩ := h
    · simp
    · simp [hq]
  case addReg | subReg | shr | subn | shl | drw => simp
  case loadRegs x =>
    obtain rfl : x = VF := Fin.last_le_iff.1 h
    simp
  all_goals exact h.elim

/-! ### The obligations -/

/-- Settles O19: outside the key wait by `exec_pc`, in it by `keyWait_eq`. -/
theorem pcOfEveryOtherInstruction : Obligations.PcOfEveryOtherInstruction := by
  refine ⟨fun i s t h => exec_pc h, fun s t hw h => ?_⟩
  rw [cycle_waiting hw] at h
  obtain rfl := Host.Outcome.next.inj h
  rw [keyWait_eq]

/-- Settles O21, by the frame of each instruction; Fx33 and Fx55 by the bytes their writes reach. -/
theorem displayAndMemoryWriters : Obligations.DisplayAndMemoryWriters :=
  fun _ _ _ h => ⟨exec_display h, exec_byteAt h⟩

/-- Settles O22, by the frame of each instruction; Fx55 and Fx65 by QUIRK_MEM_INC_I. -/
theorem indexAndStackWriters : Obligations.IndexAndStackWriters :=
  fun _ _ _ h => ⟨exec_idx h, exec_sp h, exec_stack h⟩

/-- Settles O23, by the frame of each instruction; Fx0A by whether a key is pressed. -/
theorem timerAndWaitWriters : Obligations.TimerAndWaitWriters :=
  fun _ _ _ h => ⟨exec_dt h, exec_st h, exec_wait h⟩

/-- Settles O24: VF is unchanged where it is not a register the instruction may write. -/
theorem vfWriters : Obligations.VfWriters :=
  fun i s _ h => (em (WritesReg s.cfg i VF)).symm.imp (exec_reg_of_not_writesReg h) writesReg_VF

end Sys2Proof.Machine
end

section
/-! PROOFS. PC stays even as long as the executed targets are even (10_state.md R16). -/

namespace Sys2Proof.Machine

theorem even_add2 {a : Word} (h : a.toNat % 2 = 0) : (a + 2#16).toNat % 2 = 0 := by
  simp [BitVec.toNat_add]; omega

theorem toNat_sp_succ {s : State} (h : s.sp.toNat < 16) : (s.sp + 1#8).toNat = s.sp.toNat + 1 := by
  simp [BitVec.toNat_add]; omega

theorem toNat_sp_pred {s : State} (h : 0 < s.sp.toNat) : (s.sp - 1#8).toNat = s.sp.toNat - 1 := by
  have := s.sp.isLt
  simp [BitVec.toNat_sub]; omega

/-- After a push the live slots are the one written and those that were live before (R82). -/
theorem State.slot_push {s : State} (h : s.sp.toNat < 16) (w : Word) {j : Fin 16} (hj : j.val < (s.sp + 1#8).toNat) :
    (s.setStack ⟨s.sp.toNat, h⟩ w (s.sp + 1#8)).slot j = w ∨
      j.val < s.sp.toNat ∧ (s.setStack ⟨s.sp.toNat, h⟩ w (s.sp + 1#8)).slot j = s.slot j := by
  rw [toNat_sp_succ h] at hj
  rw [State.slot_setStack]
  split
  next => exact .inl rfl
  next hne =>
    have := Fin.val_ne_of_ne hne
    simp only at this
    exact .inr ⟨by omega, rfl⟩

theorem advance_evenPc {s : State} (hs : s.EvenPc) : s.advance.EvenPc :=
  ⟨even_add2 hs.1, hs.2⟩

theorem skipIf_evenPc {s : State} (hs : s.EvenPc) (c : Bool) : (s.skipIf c).EvenPc := by
  cases c
  · exact hs
  · exact advance_evenPc hs

theorem keyWait_evenPc {s : State} (hs : s.EvenPc) : (keyWait s).EvenPc := by
  rw [keyWait_eq]
  exact hs

/-- CALL pushes the even PC and goes to an even target (R82). -/
theorem call_evenPc {s : State} {nnn : Addr12} (hs : s.EvenPc) (h : s.sp.toNat < 16) (hn : nnn.toNat % 2 = 0) :
    ((s.setStack ⟨s.sp.toNat, h⟩ s.pc (s.sp + 1#8)).setPc (addr16 nnn)).EvenPc := by
  obtain ⟨hpc, hslots⟩ := hs
  refine ⟨by simpa using hn, fun j hj => ?_⟩
  obtain he | ⟨hlive, he⟩ := State.slot_push h s.pc hj <;> rw [State.setPc_slot, he]
  · exact hpc
  · exact hslots j hlive

/-- RET comes back to a live return address, and the slots below it stay live (R84). -/
theorem ret_evenPc {s : State} (hs : s.EvenPc) (h0 : 0 < s.sp.toNat) (h : s.sp.toNat - 1 < 16) :
    ((s.setSp (s.sp - 1#8)).setPc (s.slot ⟨s.sp.toNat - 1, h⟩)).EvenPc := by
  obtain ⟨-, hslots⟩ := hs
  refine ⟨hslots ⟨s.sp.toNat - 1, h⟩ (by simp only; omega), fun j hj => hslots j ?_⟩
  rw [State.setPc_sp, State.setSp_sp, toNat_sp_pred h0] at hj
  omega

/-- Every instruction with an even target keeps PC and the live return addresses even. -/
theorem exec_evenPc {i : Instr} {s t : State} (hs : s.EvenPc) (hi : evenTarget i s) (h : exec i s = .next t) : t.EvenPc := by
  cases i
  case ret =>
    obtain ⟨h0, hslot, rfl⟩ := execRet_next.1 h
    exact ret_evenPc hs h0 hslot
  case call nnn =>
    obtain ⟨hsp, rfl⟩ := execCall_next.1 h
    exact call_evenPc hs hsp hi
  case jp nnn =>
    obtain rfl := Host.Outcome.next.inj h
    exact ⟨by simpa [evenTarget] using hi, hs.2⟩
  case jpV0 nnn =>
    obtain rfl := Host.Outcome.next.inj h
    refine ⟨?_, hs.2⟩
    simp only [evenTarget] at hi
    simp [BitVec.toNat_add]; omega
  case seImm | sneImm | seReg | sneReg | skp | sknp =>
    obtain rfl := Host.Outcome.next.inj h
    exact skipIf_evenPc hs _
  all_goals
    rw [exec_frame h]
    exact hs

/-- Settles O18: a next state is the key wait's or an instruction's; after a fault PC is as it was or advanced (R152). -/
theorem pcStaysEven : Obligations.PcStaysEven := by
  intro s t hs _ htarget h
  obtain hc | ⟨f, hc, -, rfl⟩ := deliver_eq_next h
  · obtain ⟨-, hk⟩ | ⟨-, -, hk⟩ | ⟨w, hw, ⟨-, hk⟩ | ⟨i, hd, hk⟩⟩ := cycle_cases s <;> rw [hk] at hc
    · obtain rfl := Host.Outcome.next.inj hc
      exact keyWait_evenPc hs
    · cases hc
    · cases hc
    · exact exec_evenPc (advance_evenPc hs) (htarget w i hw hd) hc
  · obtain he | ⟨-, he⟩ := cycle_fault_after hc <;> rw [he]
    · exact hs
    · exact advance_evenPc hs

end Sys2Proof.Machine
end

section
/-! PROOFS. No instruction observes ST, `wait_x` or a stack slot that is not live (10_state.md R18, R19, R22): run from two states
that differ in these alone, it answers two states that differ in these alone. -/

namespace Sys2Proof.Machine

/-- The state with other values of ST, `wait_x` and the stack slots. -/
def State.withHidden (s : State) (b : Byte) (r : Reg) (k : Vector Word 16) : State :=
  { s with st := b, waitX := r, stack := k }

/-- `u` is `s` but for ST, `wait_x` and stack slots at SP or above. -/
def HiddenOnly (s u : State) : Prop :=
  ∃ b r k, u = s.withHidden b r k ∧ ∀ j : Fin 16, j.val < s.sp.toNat → u.slot j = s.slot j

/-- From every state that differs from `s` in hidden state only, `i` answers one that differs from `t` in hidden state only, and in
no hidden piece that was the same before. -/
def Unobserved (i : Instr) (s t : State) : Prop :=
  ∀ u, HiddenOnly s u → ∃ w, exec i u = .next w ∧ HiddenOnly t w ∧
    (u.st = s.st → w.st = t.st) ∧ (u.waitX = s.waitX → w.waitX = t.waitX) ∧ (u.stack = s.stack → w.stack = t.stack)

/-! ### The operations do not see the hidden state -/

section
variable (s : State) (b : Byte) (r : Reg) (k : Vector Word 16)

@[simp] theorem State.withHidden_cfg : (s.withHidden b r k).cfg = s.cfg := rfl

theorem State.setLogic_withHidden (x : Reg) (a : Byte) :
    (s.withHidden b r k).setLogic x a = (s.setLogic x a).withHidden b r k := by
  rw [State.setLogic, State.setLogic, State.withHidden_cfg]
  split <;> rfl

theorem State.skipIf_withHidden (c : Bool) : (s.withHidden b r k).skipIf c = (s.skipIf c).withHidden b r k := by
  cases c <;> rfl

theorem State.incIdx_withHidden (x : Reg) : (s.withHidden b r k).incIdx x = (s.incIdx x).withHidden b r k := by
  rw [State.incIdx, State.incIdx, State.withHidden_cfg]
  split <;> rfl

theorem State.setBytes_withHidden (a : Nat) (bs : List Byte) :
    (s.withHidden b r k).setBytes a bs = (s.setBytes a bs).withHidden b r k := by
  induction bs generalizing s a with
  | nil => rfl
  | cons c bs ih => exact ih (s.setByte a c) (a + 1)

theorem State.foldl_setReg_withHidden (f : Reg → Byte) (l : List Reg) :
    l.foldl (fun t i => t.setReg i (f i)) (s.withHidden b r k) =
      (l.foldl (fun t i => t.setReg i (f i)) s).withHidden b r k := by
  induction l generalizing s with
  | nil => rfl
  | cons i l ih => exact ih (s.setReg i (f i))

theorem State.storeUpTo_withHidden (x : Reg) : (s.withHidden b r k).storeUpTo x = (s.storeUpTo x).withHidden b r k :=
  State.setBytes_withHidden ..

theorem State.loadUpTo_withHidden (x : Reg) : (s.withHidden b r k).loadUpTo x = (s.loadUpTo x).withHidden b r k :=
  State.foldl_setReg_withHidden s b r k (fun i => s.byteAt (s.ea i.val)) (regsUpTo x)

end

/-! ### The instructions -/

/-- An instruction that neither writes nor reads hidden state, nor moves SP. -/
theorem Unobserved.of_same {i : Instr} {s t : State}
    (hx : ∀ b r k, exec i (s.withHidden b r k) = .next (t.withHidden b r k))
    (hst : t.st = s.st) (hwait : t.waitX = s.waitX) (hsp : t.sp = s.sp) (hstack : t.stack = s.stack) : Unobserved i s t := by
  rintro u ⟨b, r, k, rfl, hlive⟩
  refine ⟨t.withHidden b r k, hx b r k, ⟨b, r, k, rfl, fun j hj => ?_⟩, (·.trans hst.symm), (·.trans hwait.symm),
    (·.trans hstack.symm)⟩
  rw [hsp] at hj
  exact (hlive j hj).trans (by rw [State.slot, State.slot, hstack])

/-- CALL writes the slot at SP, which becomes live (R82). -/
theorem call_unobserved {nnn : Addr12} {s t : State} (h : exec (.call nnn) s = .next t) : Unobserved (.call nnn) s t := by
  obtain ⟨hsp, rfl⟩ := execCall_next.1 h
  rintro u ⟨b, r, k, rfl, hlive⟩
  refine ⟨_, execCall_next.2 ⟨hsp, rfl⟩, ⟨b, r, k.set s.sp.toNat s.pc, rfl, fun j hj => ?_⟩, id, id,
    congrArg fun slots : Vector Word 16 => slots.set s.sp.toNat s.pc⟩
  simp only [State.setPc_sp, State.setStack_sp, toNat_sp_succ hsp] at hj
  rw [State.setPc_slot, State.setPc_slot, State.slot_setStack, State.slot_setStack]
  by_cases hnew : j.val = s.sp.toNat
  · rw [if_pos (Fin.ext hnew), if_pos (Fin.ext hnew)]
    rfl
  · rw [if_neg fun he => hnew (congrArg Fin.val he), if_neg fun he => hnew (congrArg Fin.val he)]
    exact hlive j (by omega)

/-- RET reads the newest live slot alone (R84). -/
theorem ret_unobserved {s t : State} (h : exec .ret s = .next t) : Unobserved .ret s t := by
  obtain ⟨h0, hslot, rfl⟩ := execRet_next.1 h
  rintro u ⟨b, r, k, rfl, hlive⟩
  have htop := hlive ⟨s.sp.toNat - 1, hslot⟩ (by simp only; omega)
  refine ⟨_, execRet_next.2 ⟨h0, hslot, rfl⟩, ⟨b, r, k, by rw [← htop]; rfl, fun j hj => ?_⟩, id, id, id⟩
  rw [State.setPc_sp, State.setSp_sp, toNat_sp_pred h0] at hj
  exact hlive j (by omega)

/-- Fx0A with no key pressed writes `wait_x`, whatever it held (R145). -/
theorem ldVxK_unobserved {x : Reg} {s t : State} (h : exec (.ldVxK x) s = .next t) : Unobserved (.ldVxK x) s t := by
  obtain ⟨k, hk, rfl⟩ | ⟨hk, rfl⟩ := execLdVxK_next h
  · exact .of_same (fun b r k => execLdVxK_some (s := s.withHidden b r k) hk) rfl rfl rfl rfl
  · rintro u ⟨b, r, k, rfl, hlive⟩
    exact ⟨_, execLdVxK_none hk, ⟨b, x, k, rfl, hlive⟩, id, fun _ => rfl, id⟩

/-- Fx18 writes ST, whatever it held (R144). -/
theorem ldStVx_unobserved {x : Reg} {s t : State} (h : exec (.ldStVx x) s = .next t) : Unobserved (.ldStVx x) s t := by
  obtain rfl := Host.Outcome.next.inj h
  rintro u ⟨b, r, k, rfl, hlive⟩
  exact ⟨_, rfl, ⟨s.reg x, r, k, rfl, hlive⟩, fun _ => rfl, id, id⟩

/-- No instruction observes hidden state. -/
theorem exec_unobserved {i : Instr} {s t : State} (h : exec i s = .next t) : Unobserved i s t := by
  cases i
  case call nnn => exact call_unobserved h
  case ret => exact ret_unobserved h
  case ldVxK x => exact ldVxK_unobserved h
  case ldStVx x => exact ldStVx_unobserved h
  all_goals
    refine .of_same (fun b r k => ?_) (by rw [exec_frame h]) (by rw [exec_frame h]) (by rw [exec_frame h]) (by rw [exec_frame h])
  case drw x y n =>
    obtain ⟨rfl, hrange⟩ := withRange_next h
    exact withRange_ok (s := s.withHidden b r k) _ hrange
  case ldB x =>
    obtain ⟨rfl, hrange⟩ := withRange_next h
    rw [← State.setBytes_withHidden]
    exact withRange_ok (s := s.withHidden b r k) _ hrange
  case storeRegs x =>
    obtain ⟨rfl, hrange⟩ := withRange_next h
    rw [← State.incIdx_withHidden, ← State.storeUpTo_withHidden]
    exact withRange_ok (s := s.withHidden b r k) _ hrange
  case loadRegs x =>
    obtain ⟨rfl, hrange⟩ := withRange_next h
    rw [← State.incIdx_withHidden, ← State.loadUpTo_withHidden]
    exact withRange_ok (s := s.withHidden b r k) _ hrange
  all_goals obtain rfl := Host.Outcome.next.inj h
  case orReg | andReg | xorReg => exact congrArg _ (State.setLogic_withHidden ..)
  case seImm | sneImm | seReg | sneReg | skp | sknp => exact congrArg _ (State.skipIf_withHidden ..)
  all_goals rfl

/-- Settles O26: each of the three changes is one of hidden state alone, which `exec_unobserved` follows through the instruction. -/
theorem hiddenStateIsNotObserved : Obligations.HiddenStateIsNotObserved := by
  refine fun i s t h => ⟨fun b => ?st, fun r => ?waitX, fun k w hk => ?stack⟩
  case st =>
    obtain ⟨_, hw, ⟨b', r', k', rfl, -⟩, -, hwait, hstack⟩ := exec_unobserved h _ ⟨b, s.waitX, s.stack, rfl, fun _ _ => rfl⟩
    obtain rfl : r' = t.waitX := hwait rfl
    obtain rfl : k' = t.stack := hstack rfl
    exact ⟨b', hw⟩
  case waitX =>
    obtain ⟨_, hw, ⟨b', r', k', rfl, -⟩, hst, -, hstack⟩ := exec_unobserved h _ ⟨s.st, r, s.stack, rfl, fun _ _ => rfl⟩
    obtain rfl : b' = t.st := hst rfl
    obtain rfl : k' = t.stack := hstack rfl
    exact ⟨r', hw⟩
  case stack =>
    have hlive : ∀ j : Fin 16, j.val < s.sp.toNat → (s.setStack k w s.sp).slot j = s.slot j := fun j hj => by
      rw [State.slot_setStack, if_neg (by rintro rfl; omega)]
    obtain ⟨_, hw, ⟨b', r', k', rfl, hlive'⟩, hst, hwait, -⟩ :=
      exec_unobserved h _ ⟨s.st, s.waitX, s.stack.set k.val w, rfl, hlive⟩
    obtain rfl : b' = t.st := hst rfl
    obtain rfl : r' = t.waitX := hwait rfl
    exact ⟨_, hw, rfl, hlive'⟩

end Sys2Proof.Machine
end

section
/-! PROOFS. Memory: the fetch, one byte read or written, the bytes that Fx55 stores and those that `LoadProgram` writes
(20_memory.md R41 to R54). -/

namespace Sys2Proof.Machine

/-! ### The fetch -/

/-- R43: with PC at most 4094 the fetch answers, in the key wait or not. -/
theorem fetch_inside {s : State} (h : s.pc.toNat ≤ 4094) :
    fetch s = .ok (s.byteAt s.pc.toNat ++ s.byteAt (s.pc.toNat + 1)) := by
  rw [fetch, if_neg (by omega), opcodeOf]

/-- R43, R152: a fetch above 4094 ends the step with nothing changed. -/
theorem cycle_fetch_out {s : State} (hwait : s.waiting = false) (h : 4094 < s.pc.toNat) :
    cycle s = .fault (.memoryFault (max s.pc.toNat 4096) s) := by
  obtain ⟨hw, -⟩ | ⟨-, -, hc⟩ | ⟨w, ⟨-, hpc, -⟩, -⟩ := cycle_cases s
  · rw [hwait] at hw; cases hw
  · exact hc
  · omega

/-- Settles O8, by the two branches of the fetch. -/
theorem fetchIsBigEndianOrFaults : Obligations.FetchIsBigEndianOrFaults := by
  refine fun s => ⟨fun h => ⟨_, fetch_inside h, ?_⟩, fun h => ⟨fetch_out h, fun hwait => cycle_fetch_out hwait h⟩⟩
  rw [toNat_append]
  omega

/-! ### One byte -/

theorem memRead_inside (s : State) {a : Nat} (h : a ≤ 4095) : memRead s a = .ok (s.byteAt a) :=
  if_pos h

theorem memRead_out (s : State) {a : Nat} (h : 4095 < a) : memRead s a = .error a :=
  if_neg (Nat.not_le.2 h)

theorem memWrite_inside (s : State) {a : Nat} (b : Byte) (h : a ≤ 4095) : memWrite s a b = .ok (s.setByte a b) :=
  if_pos h

theorem memWrite_out (s : State) {a : Nat} (b : Byte) (h : 4095 < a) : memWrite s a b = .error a :=
  if_neg (Nat.not_le.2 h)

/-- Settles O46: inside memory a write is `setByte`, whose bytes are those of `byteAt_setByte`. -/
theorem byteReadsAndWrites : Obligations.ByteReadsAndWrites := by
  refine fun s a b => ⟨fun h => ⟨memRead_inside s h, s.setByte a b, memWrite_inside s b h, rfl, ?written, fun c hc => ?others,
    fun hwf => Memory.wf_write b hwf (by omega)⟩, fun h => ⟨memRead_out s h, memWrite_out s b h⟩⟩
  case written => rw [State.byteAt_setByte, if_pos rfl]
  case others => rw [State.byteAt_setByte, if_neg hc]

/-! ### An opcode stored by Fx55 -/

/-- R124: after Fx55's loop the byte at `I + r` is `V[r]`, for every `r` up to `x`. -/
theorem State.storeUpTo_byteAt_ea (s : State) {x r : Reg} (hr : r.val ≤ x.val) :
    (s.storeUpTo x).byteAt (s.ea r.val) = s.reg r := by
  rw [State.storeUpTo_byteAt, dif_pos (by simp only [State.ea]; omega)]
  congr 1
  apply Fin.ext
  simp only [State.ea]
  omega

/-- R124: so it is after the whole of Fx55, whether or not I moves. -/
theorem storeRegs_byteAt_ea {s t : State} {x r : Reg} (h : exec (.storeRegs x) s = .next t) (hr : r.val ≤ x.val) :
    t.byteAt (s.ea r.val) = s.reg r := by
  obtain ⟨rfl, -⟩ := withRange_next h
  rw [State.incIdx_byteAt, State.storeUpTo_byteAt_ea s hr]

/-- Settles O45: V0 and V1 stand at I and I + 1, that is at PC and PC + 1, both inside memory by the range check. -/
theorem storedOpcodeIsFetched : Obligations.StoredOpcodeIsFetched := by
  intro s t x h hx hpc hwait
  have hpc' : t.pc = s.pc := by rw [exec_frame h]
  have hwait' : t.waiting = s.waiting := by rw [exec_frame h]
  obtain ⟨-, hrange⟩ := withRange_next h
  have hhi : t.byteAt s.idx.toNat = s.reg 0 := storeRegs_byteAt_ea (r := 0) h (Nat.zero_le _)
  have hlo : t.byteAt (s.idx.toNat + 1) = s.reg 1 := storeRegs_byteAt_ea (r := 1) h hx
  refine ⟨hwait'.trans hwait, ?_, ?_⟩ <;> rw [hpc', hpc]
  · omega
  · rw [hhi, hlo]

/-! ### LoadProgram -/

/-- R50: the `k`-th byte of the list stands at `a + k`. -/
theorem State.byteAt_setBytes_inside (s : State) (a : Nat) {bs : List Byte} {k : Nat} (hk : k < bs.length) :
    (s.setBytes a bs).byteAt (a + k) = bs[k] := by
  rw [State.byteAt_setBytes, dif_pos ⟨by omega, by omega⟩]
  simp only [Nat.add_sub_cancel_left]

/-- R50: every byte beside the list is as before. -/
theorem State.sameOutside_setBytes (s : State) (a : Nat) (bs : List Byte) : SameOutside s (s.setBytes a bs) a bs.length :=
  fun c hc => by rw [State.byteAt_setBytes, dif_neg (by omega)]

theorem loadProgram_fits {bytes : List Byte} {origin : Nat} (s : State) (h : origin + bytes.length ≤ 4096) :
    loadProgram bytes origin s = .next (s.setBytes origin bytes) :=
  if_neg (Nat.not_lt.2 h)

/-- R172: with too little room nothing is written. -/
theorem loadProgram_outOfSpace {bytes : List Byte} {origin : Nat} (s : State) (h : 4096 < origin + bytes.length) :
    loadProgram bytes origin s = .fault (.outOfSpace s) :=
  if_pos h

/-- Settles O56, by whether the program fits; where it does, by what `setBytes` does to every byte. -/
theorem loadProgramWritesItsBytes : Obligations.LoadProgramWritesItsBytes :=
  fun s bytes origin => ⟨fun h => ⟨s.setBytes origin bytes, loadProgram_fits s h, State.setBytes_eq .., fun _ hk =>
    s.byteAt_setBytes_inside origin hk, s.sameOutside_setBytes origin bytes⟩, loadProgram_outOfSpace s⟩

end Sys2Proof.Machine
end

section
/-! PROOFS. Decoding and encoding (30_encoding.md R60 to R64): each undoes the other, what a word's fields are, which words are
illegal, and what a step does with a decoded word. A decode looks at a few fields only, so the proofs go by the formats of R60. -/

namespace Sys2Proof

/-! ### Round trips -/

/-- R60, R63: an instruction is decoded from its word, by the format of its encoding. -/
theorem decode_encode (i : Instr) : decode (encode i) = .ok i := by
  cases i with
  | cls | ret => rfl
  | jp nnn | call nnn | ldI nnn | jpV0 nnn => simp [encode, decode, Fields.ofWord_nnn]
  | seImm x nn | sneImm x nn | ldImm x nn | addImm x nn | rnd x nn => simp [encode, decode, Fields.ofWord_xnn]
  | seReg x y | sneReg x y | drw x y n => simp [encode, decode, Fields.ofWord_xyn]
  | ldReg x y | orReg x y | andReg x y | xorReg x y | addReg x y | subReg x y | shr x y | subn x y | shl x y =>
    simp [encode, decode, decodeFamily8, Fields.ofWord_xyn]
  | skp x | sknp x => simp [encode, decode, Fields.ofWord_xnn]
  | ldVxDt x | ldVxK x | ldDtVx x | ldStVx x | addI x | ldF x | ldB x | storeRegs x | loadRegs x =>
    simp [encode, decode, decodeFamilyF, Fields.ofWord_xnn]

/-- R43: a word is its two bytes, high byte first. -/
theorem opcodeOf_extract (w : Opcode) : opcodeOf (w.extractLsb' 8 8) (w.extractLsb' 0 8) = w :=
  (BitVec.extractLsb'_append_extractLsb'_eq_extractLsb' rfl).trans BitVec.extractLsb'_eq_self

theorem decodeBytes_bytesOf {w : Opcode} {i : Instr} (h : decode w = .ok i) : decodeBytes (bytesOf w) = .ok (i, []) := by
  simp only [bytesOf, decodeBytes, opcodeOf_extract, h]

/-- Settles O1, by the format of each instruction; the two bytes are those of its word. -/
theorem decodeInvertsEncode : Obligations.DecodeInvertsEncode :=
  fun i => ⟨decode_encode i, decodeBytes_bytesOf (decode_encode i)⟩

/-- R63: what family 8 decodes is encoded with the `x`, `y` and `n` it was decoded from. -/
theorem encode_of_decodeFamily8 {w : Opcode} {f : Fields} {i : Instr} (h : decodeFamily8 w f = .ok i) :
    encode i = 0x8#4 ++ f.x ++ f.y ++ f.n := by
  rw [← BitVec.setWidth_eq f.n, ← BitVec.ofNat_toNat]
  unfold decodeFamily8 at h
  generalize f.n.toNat = n at h ⊢
  split at h <;> cases h <;> rfl

/-- R63: what family F decodes is encoded with the `x` and `nn` it was decoded from. -/
theorem encode_of_decodeFamilyF {w : Opcode} {f : Fields} {i : Instr} (h : decodeFamilyF w f = .ok i) :
    encode i = 0xF#4 ++ f.x ++ f.nn := by
  rw [← BitVec.setWidth_eq f.nn, ← BitVec.ofNat_toNat]
  unfold decodeFamilyF at h
  generalize f.nn.toNat = nn at h ⊢
  split at h <;> cases h <;> rfl

/-- R60, R63: a legal word is put together from its family and the operands decoded from it, in the family's format. The cases are
the families in order: `h_1` is family 0, `h_16` family F. -/
theorem encode_of_decode {w : Opcode} {i : Instr} (h : decode w = .ok i) : encode i = w := by
  have hnnn := Fields.nnn_append w
  have hxnn := Fields.xnn_append w
  have hxyn := Fields.xyn_append w
  rw [← BitVec.setWidth_eq (Fields.ofWord w).family, ← BitVec.ofNat_toNat] at hnnn hxnn hxyn
  simp only [decode] at h
  generalize (Fields.ofWord w).family.toNat = family at h hnnn hxnn hxyn
  split at h
  case h_1 =>
    split at h
    · next hw => cases h; exact hw.symm
    · split at h
      · next hw => cases h; exact hw.symm
      · cases h
  case h_2 | h_3 | h_11 | h_12 => cases h; exact hnnn
  case h_4 | h_5 | h_7 | h_8 | h_13 => cases h; exact hxnn
  case h_6 | h_10 =>
    split at h
    · next hn => cases h; rw [hn] at hxyn; exact hxyn
    · cases h
  case h_9 => exact (encode_of_decodeFamily8 h).trans hxyn
  case h_14 => cases h; exact hxyn
  case h_15 =>
    split at h
    · next hnn => cases h; rw [hnn] at hxnn; exact hxnn
    · split at h
      · next hnn => cases h; rw [hnn] at hxnn; exact hxnn
      · cases h
  case h_16 => exact (encode_of_decodeFamilyF h).trans hxnn
  case h_17 => cases h

/-- Settles O2, by the families of the word. -/
theorem encodeInvertsDecode : Obligations.EncodeInvertsDecode :=
  fun _ _ h => encode_of_decode h

/-! ### The illegal words -/

theorem decodeFamily8_error_iff {w : Opcode} {f : Fields} :
    decodeFamily8 w f = .error (.unknownOpcode w) ↔ 8 ≤ f.n.toNat ∧ f.n.toNat ≠ 14 := by
  have := f.n.isLt
  unfold decodeFamily8
  split <;> simp_all; omega

theorem decodeFamilyF_error_iff {w : Opcode} {f : Fields} :
    decodeFamilyF w f = .error (.unknownOpcode w) ↔ f.nn.toNat ∉ [0x07, 0x0A, 0x15, 0x18, 0x1E, 0x29, 0x33, 0x55, 0x65] := by
  unfold decodeFamilyF
  split <;> simp_all

theorem ite_ok_eq_error_iff {p : Prop} [Decidable p] {i : Instr} {e : DecodeError} {r : Except DecodeError Instr} :
    (if p then .ok i else r) = .error e ↔ ¬ p ∧ r = .error e := by
  split <;> simp_all

/-- Settles O4, by the families of the word (`h_1` is family 0, `h_16` family F): 0, 5, 9 and E refuse by their tests, 8 and F by
their sub-opcodes, the others nothing. -/
theorem illegalWordsByFamily : Obligations.IllegalWordsByFamily := by
  intro w
  obtain ⟨hf, -, -, hn, hnn, -⟩ := Fields.toNat_ofWord w
  have hlt : w.toNat / 4096 < 16 := Nat.div_lt_of_lt_mul w.isLt
  rw [Nat.mod_eq_of_lt hlt] at hf
  simp only [decode, hf]
  split
  case h_1 _ hfamily | h_6 _ hfamily | h_10 _ hfamily | h_15 _ hfamily =>
    simp [hfamily, ite_ok_eq_error_iff, ← BitVec.toNat_inj, hn, hnn]
  case h_9 _ hfamily => simp [hfamily, decodeFamily8_error_iff, hn]
  case h_16 _ hfamily => simp [hfamily, decodeFamilyF_error_iff, hnn]
  case h_17 => interval_cases w.toNat / 4096 <;> contradiction
  all_goals next hfamily => simp [hfamily]

/-! ### Fields, samples, and the step -/

/-- Settles O5, by the numbers of the fields. -/
theorem fieldsOfAWord : Obligations.FieldsOfAWord := by
  intro w
  obtain ⟨hf, hx, hy, hn, hnn, hnnn⟩ := Fields.toNat_ofWord w
  have hlt := w.isLt
  refine ⟨by omega, hx, hy, hn, hnn, hnnn, BitVec.eq_of_toNat_eq ?_, BitVec.eq_of_toNat_eq ?_⟩
  · rw [toNat_append]; omega
  · rw [toNat_append, toNat_append]; omega

/-- Settles O6, by running the decoder: these are fixed words. -/
theorem sampleWordsDecode : Obligations.SampleWordsDecode := by
  unfold Obligations.SampleWordsDecode
  decide

/-- Settles O7, by the last case of the step cycle; that PC moves by 2 without wrapping is the bound of the fetch. -/
theorem stepRunsTheDecodedInstruction : Obligations.StepRunsTheDecodedInstruction := by
  intro s w i hfetch hdecode
  have hcycle := Machine.cycle_fetches hfetch hdecode
  obtain ⟨-, hpc, -⟩ := hfetch
  exact ⟨hcycle, congrArg Machine.deliver hcycle, ⟨rfl, fun _ => rfl⟩, Machine.toNat_add2 hpc⟩

end Sys2Proof
end

section
/-! PROOFS. The decoder is the opcode map (30_encoding.md R63). Every instruction has a row; a word that agrees with an
instruction's word under the row's mask decodes to an instruction of that row. -/

namespace Sys2Proof

/-! ### The fields a mask keeps -/

theorem and_mask_family (w : Opcode) : w &&& 0xF000#16 = (Fields.ofWord w).family ++ 0#12 := by
  conv_lhs => rw [← Fields.nnn_append w, show 0xF000#16 = BitVec.allOnes 4 ++ 0#12 from rfl]
  rw [BitVec.and_append, BitVec.and_allOnes, BitVec.and_zero]

theorem and_mask_family_n (w : Opcode) :
    w &&& 0xF00F#16 = (Fields.ofWord w).family ++ 0#4 ++ 0#4 ++ (Fields.ofWord w).n := by
  conv_lhs => rw [← Fields.xyn_append w, show 0xF00F#16 = BitVec.allOnes 4 ++ 0#4 ++ 0#4 ++ BitVec.allOnes 4 from rfl]
  rw [BitVec.and_append, BitVec.and_append, BitVec.and_append, BitVec.and_allOnes, BitVec.and_allOnes, BitVec.and_zero, BitVec.and_zero]

theorem and_mask_family_nn (w : Opcode) : w &&& 0xF0FF#16 = (Fields.ofWord w).family ++ 0#4 ++ (Fields.ofWord w).nn := by
  conv_lhs => rw [← Fields.xnn_append w, show 0xF0FF#16 = BitVec.allOnes 4 ++ 0#4 ++ BitVec.allOnes 8 from rfl]
  rw [BitVec.and_append, BitVec.and_append, BitVec.and_allOnes, BitVec.and_allOnes, BitVec.and_zero]

theorem eq_of_and_mask {w v : Opcode} (h : w &&& 0xFFFF#16 = v &&& 0xFFFF#16) : w = v := by
  rwa [show 0xFFFF#16 = BitVec.allOnes 16 from rfl, BitVec.and_allOnes, BitVec.and_allOnes] at h

theorem family_eq_of_and_mask {w v : Opcode} (h : w &&& 0xF000#16 = v &&& 0xF000#16) :
    (Fields.ofWord w).family = (Fields.ofWord v).family := by
  rw [and_mask_family, and_mask_family] at h
  simpa [Fields.ofWord_nnn] using congrArg (fun u => (Fields.ofWord u).family) h

theorem family_n_eq_of_and_mask {w v : Opcode} (h : w &&& 0xF00F#16 = v &&& 0xF00F#16) :
    (Fields.ofWord w).family = (Fields.ofWord v).family ∧ (Fields.ofWord w).n = (Fields.ofWord v).n := by
  rw [and_mask_family_n, and_mask_family_n] at h
  exact ⟨by simpa [Fields.ofWord_xyn] using congrArg (fun u => (Fields.ofWord u).family) h,
    by simpa [Fields.ofWord_xyn] using congrArg (fun u => (Fields.ofWord u).n) h⟩

theorem family_nn_eq_of_and_mask {w v : Opcode} (h : w &&& 0xF0FF#16 = v &&& 0xF0FF#16) :
    (Fields.ofWord w).family = (Fields.ofWord v).family ∧ (Fields.ofWord w).nn = (Fields.ofWord v).nn := by
  rw [and_mask_family_nn, and_mask_family_nn] at h
  exact ⟨by simpa [Fields.ofWord_xnn] using congrArg (fun u => (Fields.ofWord u).family) h,
    by simpa [Fields.ofWord_xnn] using congrArg (fun u => (Fields.ofWord u).nn) h⟩

/-! ### The row of an instruction -/

/-- The bits that R63 fixes for an instruction, by its format: the whole word, the family and `n`, the family and `nn`, or the
family alone. -/
def Instr.mask : Instr → Opcode
  | .cls | .ret => 0xFFFF
  | .seReg .. | .sneReg .. | .ldReg .. | .orReg .. | .andReg .. | .xorReg .. | .addReg .. | .subReg .. | .shr .. | .subn .. | .shl .. =>
    0xF00F
  | .skp _ | .sknp _ | .ldVxDt _ | .ldVxK _ | .ldDtVx _ | .ldStVx _ | .addI _ | .ldF _ | .ldB _ | .storeRegs _ | .loadRegs _ => 0xF0FF
  | _ => 0xF000

/-- The row of R63 that an instruction belongs to: its value is the fixed bits of the instruction's own word. -/
def Instr.row (i : Instr) : OpcodeRow :=
  ⟨i.mnemonic, i.mask, encode i &&& i.mask⟩

theorem Instr.row_mem (i : Instr) : i.row ∈ opcodeTable := by
  unfold opcodeTable opcodeTableLow opcodeTableMid opcodeTableHigh
  cases i with
  | cls | ret => simp [Instr.row, Instr.mnemonic, Instr.mask, encode]
  | jp nnn | call nnn | ldI nnn | jpV0 nnn | seImm x nn | sneImm x nn | ldImm x nn | addImm x nn | rnd x nn | drw x y n =>
    simp [Instr.row, Instr.mnemonic, Instr.mask, encode, and_mask_family, Fields.ofWord_nnn, Fields.ofWord_xnn, Fields.ofWord_xyn]
  | seReg x y | sneReg x y | ldReg x y | orReg x y | andReg x y | xorReg x y | addReg x y | subReg x y | shr x y | subn x y | shl x y =>
    simp [Instr.row, Instr.mnemonic, Instr.mask, encode, and_mask_family_n, Fields.ofWord_xyn]
  | skp x | sknp x | ldVxDt x | ldVxK x | ldDtVx x | ldStVx x | addI x | ldF x | ldB x | storeRegs x | loadRegs x =>
    simp [Instr.row, Instr.mnemonic, Instr.mask, encode, and_mask_family_nn, Fields.ofWord_xnn]

/-- The value of a row, its free bits 0, is a word of that row: 34 fixed words. -/
theorem decode_row_value : ∀ r ∈ opcodeTable, (decode r.value).map Instr.row = .ok r := by
  decide

theorem exists_row_eq {r : OpcodeRow} (hr : r ∈ opcodeTable) : ∃ i : Instr, i.row = r := by
  have h := decode_row_value r hr
  cases hd : decode r.value with
  | error e => rw [hd] at h; cases h
  | ok i => rw [hd] at h; cases h; exact ⟨i, rfl⟩

/-! ### Words that match a row -/

/-- A word that agrees with the word of `i` on the bits of the mask decodes by the same branch as that word does. -/
theorem decode_of_and_mask {w : Opcode} {i : Instr} (h : w &&& i.mask = encode i &&& i.mask) :
    ∃ j, decode w = .ok j ∧ j.mnemonic = i.mnemonic ∧ j.mask = i.mask := by
  cases i with
  | cls | ret =>
    rw [eq_of_and_mask h]
    exact ⟨_, decode_encode _, rfl, rfl⟩
  | jp nnn | call nnn | ldI nnn | jpV0 nnn | seImm x nn | sneImm x nn | ldImm x nn | addImm x nn | rnd x nn | drw x y n =>
    have hf := family_eq_of_and_mask h
    simp only [encode, Fields.ofWord_nnn, Fields.ofWord_xnn, Fields.ofWord_xyn] at hf
    simp [decode, hf, Instr.mnemonic, Instr.mask]
  | seReg x y | sneReg x y | ldReg x y | orReg x y | andReg x y | xorReg x y | addReg x y | subReg x y | shr x y | subn x y | shl x y =>
    obtain ⟨hf, hn⟩ := family_n_eq_of_and_mask h
    simp only [encode, Fields.ofWord_xyn] at hf hn
    simp [decode, decodeFamily8, hf, hn, Instr.mnemonic, Instr.mask]
  | skp x | sknp x | ldVxDt x | ldVxK x | ldDtVx x | ldStVx x | addI x | ldF x | ldB x | storeRegs x | loadRegs x =>
    obtain ⟨hf, hnn⟩ := family_nn_eq_of_and_mask h
    simp only [encode, Fields.ofWord_xnn] at hf hnn
    simp [decode, decodeFamilyF, hf, hnn, Instr.mnemonic, Instr.mask]

/-- R63: a word that matches a row decodes to an instruction of that very row. -/
theorem decode_of_matches {r : OpcodeRow} {w : Opcode} (hr : r ∈ opcodeTable) (h : w &&& r.mask = r.value) :
    ∃ i, decode w = .ok i ∧ i.row = r := by
  obtain ⟨i, rfl⟩ := exists_row_eq hr
  change w &&& i.mask = encode i &&& i.mask at h
  obtain ⟨j, hj, hname, hmask⟩ := decode_of_and_mask h
  refine ⟨j, hj, ?_⟩
  rw [Instr.row, encode_of_decode hj, hname, hmask, h, ← Instr.row]

/-- Settles O3: the row of a legal word is its instruction's; a word matches no second row because it decodes to one instruction. -/
theorem decodeIsTheOpcodeMap : Obligations.DecodeIsTheOpcodeMap := by
  refine ⟨rfl, fun w => ⟨fun i hi => ⟨i.row, i.row_mem, rfl, ?agrees⟩, fun r hr h => ?names, fun r hr r' hr' h h' => ?disjoint⟩⟩
  case agrees => rw [← encode_of_decode hi]; rfl
  case names =>
    obtain ⟨i, hi, rfl⟩ := decode_of_matches hr h
    exact ⟨i, hi, rfl⟩
  case disjoint =>
    obtain ⟨i, hi, rfl⟩ := decode_of_matches hr h
    obtain ⟨j, hj, rfl⟩ := decode_of_matches hr' h'
    cases hi.symm.trans hj
    rfl

end Sys2Proof
end

section
/-! PROOFS. Control flow (40_control_flow.md): jumps, the call stack and skips. Every decode is the round trip `decode_encode`. -/

namespace Sys2Proof.Machine

/-! ### CALL and RET -/

/-- R82: with SP = `k` below 16, CALL pushes the already-advanced PC into slot `k`. -/
theorem exec_call_push {s : State} {k : Fin 16} (hk : s.sp.toNat = k.val) (nnn : Addr12) :
    exec (.call nnn) s = .next ((s.setStack k s.pc (s.sp + 1#8)).setPc (addr16 nnn)) := by
  have hfree : s.sp.toNat < 16 := by omega
  obtain rfl : k = ⟨s.sp.toNat, hfree⟩ := Fin.ext hk.symm
  exact execCall_next.2 ⟨hfree, rfl⟩

theorem exec_call_full {s : State} (h : s.sp.toNat = 16) (nnn : Addr12) : exec (.call nnn) s = .fault (.stackOverflow s) :=
  if_pos h

/-- R84: with SP = `k + 1`, RET pops slot `k` into PC. -/
theorem exec_ret_pop {s : State} {k : Fin 16} (hk : s.sp.toNat = k.val + 1) :
    exec .ret s = .next ((s.setSp (s.sp - 1#8)).setPc (s.slot k)) := by
  have hslot : s.sp.toNat - 1 < 16 := by omega
  obtain rfl : k = ⟨s.sp.toNat - 1, hslot⟩ := Fin.ext (by simp only; omega)
  exact execRet_next.2 ⟨by omega, hslot, rfl⟩

theorem exec_ret_empty {s : State} (h : s.sp.toNat = 0) : exec .ret s = .fault (.stackUnderflow s) :=
  if_pos h

/-- Settles O28, by whether a slot is free. -/
theorem callPushesOrOverflows : Obligations.CallPushesOrOverflows := by
  refine fun s nnn => ⟨decode_encode (.call nnn), fun k hk => ?_, fun h => exec_call_full h nnn⟩
  have hfree : s.sp.toNat < 16 := by omega
  refine ⟨_, exec_call_push hk nnn, toNat_addr16 nnn, toNat_sp_succ hfree, ?pushed, fun j hj => ?others, rfl, fun _ => rfl⟩
  case pushed => rw [State.setPc_slot, State.slot_setStack, if_pos rfl]
  case others => rw [State.setPc_slot, State.slot_setStack, if_neg hj]

/-- Settles O29, by whether an entry is live. -/
theorem returnPopsOrUnderflows : Obligations.ReturnPopsOrUnderflows := by
  refine fun s => ⟨decode_encode .ret, fun k hk => ?_, exec_ret_empty⟩
  have hsp : (s.sp - 1#8).toNat = k.val := by rw [toNat_sp_pred (by omega), hk, Nat.add_sub_cancel]
  exact ⟨_, exec_ret_pop hk, rfl, hsp, rfl, fun _ => rfl⟩

/-- Settles O30: the newest live entry of `u` is the slot that CALL wrote. -/
theorem returnFollowsCall : Obligations.ReturnFollowsCall := by
  intro s t u nnn hcall hsp hstack
  obtain ⟨hfree, rfl⟩ := execCall_next.1 hcall
  have hdepth : u.sp.toNat = s.sp.toNat + 1 := by rw [hsp]; exact toNat_sp_succ hfree
  have htop : u.slot ⟨s.sp.toNat, hfree⟩ = s.pc := by
    rw [State.slot, hstack]
    exact Vector.getElem_set_self hfree
  refine ⟨_, exec_ret_pop (k := ⟨s.sp.toNat, hfree⟩) hdepth, htop, ?_⟩
  rw [State.setPc_sp, State.setSp_sp, hsp]
  exact BitVec.add_sub_cancel s.sp 1#8

/-! ### Jumps -/

theorem setPc_onlyPc (s : State) (w : Word) : OnlyPc s (s.setPc w) :=
  ⟨rfl, fun _ => rfl⟩

/-- R43: a jump above 4094 is answered by the fault of the next fetch. -/
theorem cycle_setPc_out {s : State} {w : Word} (hwait : s.waiting = false) (h : 4094 < w.toNat) :
    cycle (s.setPc w) = .fault (.memoryFault (max w.toNat 4096) (s.setPc w)) :=
  cycle_fetch_out hwait h

/-- R91: a 12-bit and an 8-bit number have a 16-bit sum. -/
theorem toNat_addr16_add_byte16 (nnn : Addr12) (b : Byte) : (addr16 nnn + byte16 b).toNat = nnn.toNat + b.toNat := by
  have := nnn.isLt
  have := b.isLt
  rw [BitVec.toNat_add, toNat_addr16, toNat_byte16]
  omega

/-- Settles O27: each jump is a `setPc`, whose target the next fetch meets. -/
theorem jumpsSetPc : Obligations.JumpsSetPc := by
  refine fun s nnn => ⟨decode_encode (.jp nnn), decode_encode (.jpV0 nnn),
    ⟨_, rfl, toNat_addr16 nnn, setPc_onlyPc .., fun hn hwait => ?jp⟩,
    ⟨_, rfl, toNat_addr16_add_byte16 nnn (s.reg 0), setPc_onlyPc .., fun hsum hwait => ?jpV0⟩⟩
  case jp =>
    have htarget := (toNat_addr16 nnn).trans hn
    have hfault := cycle_setPc_out hwait (w := addr16 nnn) (by omega)
    rwa [htarget] at hfault
  case jpV0 =>
    have htarget := toNat_addr16_add_byte16 nnn (s.reg 0)
    rw [← htarget] at hsum ⊢
    exact cycle_setPc_out hwait hsum

/-! ### Skips -/

theorem skipIf_onlyPc (s : State) (c : Bool) : OnlyPc s (s.skipIf c) :=
  ⟨State.skipIf_eq s c, fun _ => by rw [State.skipIf_eq]; rfl⟩

/-- R80: an instruction that skips if `c` answers a state whose PC is 2 further exactly when the condition that `c` tests holds. -/
theorem exec_skip {i : Instr} {s : State} {c : Bool} {p : Prop} [Decidable p] (h : exec i s = .next (s.skipIf c))
    (hc : c = true ↔ p) : ∃ t, exec i s = .next t ∧ OnlyPc s t ∧ t.pc = if p then s.pc + 2#16 else s.pc :=
  ⟨_, h, skipIf_onlyPc s c, by rw [State.skipIf_pc]; simp only [hc]⟩

/-- Settles O31: the model's tests are equality and inequality with the immediate. -/
theorem skipsOnImmediate : Obligations.SkipsOnImmediate :=
  fun _ x nn => ⟨decode_encode (.seImm x nn), decode_encode (.sneImm x nn), exec_skip rfl beq_iff_eq, exec_skip rfl bne_iff_ne⟩

/-- Settles O32: the model's tests are equality and inequality of the registers, and a register equals itself. -/
theorem skipsOnRegisters : Obligations.SkipsOnRegisters := by
  intro s x y
  obtain ⟨t, ht, hframe, hpc⟩ := exec_skip (i := .seReg x y) (s := s) rfl beq_iff_eq
  obtain ⟨u, hu, hframe', hpc'⟩ := exec_skip (i := .sneReg x y) (s := s) rfl bne_iff_ne
  refine ⟨decode_encode (.seReg x y), decode_encode (.sneReg x y), ⟨t, ht, hframe, hpc, ?same⟩, ⟨u, hu, hframe', hpc', ?same'⟩⟩
  case same =>
    rintro rfl
    rw [hpc, if_pos rfl]
  case same' =>
    rintro rfl
    rw [hpc', if_neg (not_not.2 rfl)]

end Sys2Proof.Machine
end

section
/-! PROOFS. Register load, arithmetic, logic, shift and random (41_load_arith.md). Each instruction is one `setReg`, `setLogic` or
`setWithFlag`: the frame and the registers come from the operation, the byte written from the arithmetic of bytes. -/

namespace Sys2Proof.Machine

/-! ### What the register operations leave unchanged -/

theorem setReg_onlyRegs (s : State) (x : Reg) (b : Byte) : OnlyRegs s (s.setReg x b) [x] :=
  ⟨rfl, fun _ hr => State.reg_setReg_ne s b (List.ne_of_not_mem_cons hr), fun _ => rfl⟩

theorem setReg_VF_onlyRegs (s : State) (x : Reg) (b b' : Byte) : OnlyRegs s ((s.setReg x b).setReg VF b') [x, VF] := by
  refine ⟨rfl, fun r hr => ?_, fun _ => rfl⟩
  obtain ⟨hx, hf⟩ : r ≠ x ∧ r ≠ VF := by simpa using hr
  rw [State.reg_setReg_ne _ _ hf, State.reg_setReg_ne _ _ hx]

/-! ### Loads and ADD Vx, nn -/

/-- Settles O33: both loads are a `setReg`. -/
theorem loadsOfARegister : Obligations.LoadsOfARegister :=
  fun s x y nn => ⟨decode_encode (.ldImm x nn), decode_encode (.ldReg x y),
    ⟨_, rfl, State.reg_setReg_self s x nn, setReg_onlyRegs ..⟩, ⟨_, rfl, State.reg_setReg_self s x (s.reg y), setReg_onlyRegs ..⟩⟩

/-- Settles O34: a `setReg` of the sum of two bytes, which wraps. -/
theorem addImmediateWrapsWithoutFlag : Obligations.AddImmediateWrapsWithoutFlag := by
  refine fun s x nn => ⟨decode_encode (.addImm x nn), _, rfl, ?sum, setReg_onlyRegs .., fun hx => ?flag⟩
  case sum => rw [State.reg_setReg_self, BitVec.toNat_add]
  case flag => exact State.reg_setReg_ne s _ hx.symm

/-! ### Logic -/

/-- R104: `setLogic` stores a byte that holds `f` of the old bits, then clears VF under the quirk. -/
theorem setLogic_logicOf {f : Bool → Bool → Bool} {s : State} {x y : Reg} {b : Byte}
    (hb : ∀ k, b.getLsbD k = f ((s.reg x).getLsbD k) ((s.reg y).getLsbD k)) : LogicOf f s (s.setLogic x b) x y := by
  refine ⟨fun hq => ?off, fun hq => ?on⟩
  case off =>
    have hset : s.setLogic x b = s.setReg x b := if_neg (by simp [hq])
    rw [hset, State.reg_setReg_self]
    exact ⟨fun k _ => hb k, setReg_onlyRegs ..⟩
  case on =>
    have hset : s.setLogic x b = (s.setReg x b).setReg VF 0x00#8 := if_pos hq
    rw [hset]
    refine ⟨fun hx k _ => ?_, State.reg_setReg_self .., setReg_VF_onlyRegs ..⟩
    rw [State.reg_setReg_ne _ _ hx, State.reg_setReg_self, hb]

/-- Settles O35: OR, AND and XOR of bytes are those of their bits. -/
theorem logicAndTheVfQuirk : Obligations.LogicAndTheVfQuirk :=
  fun _ x y => ⟨decode_encode (.orReg x y), decode_encode (.andReg x y), decode_encode (.xorReg x y),
    ⟨_, rfl, setLogic_logicOf fun _ => BitVec.getLsbD_or⟩, ⟨_, rfl, setLogic_logicOf fun _ => BitVec.getLsbD_and⟩,
    ⟨_, rfl, setLogic_logicOf fun _ => BitVec.getLsbD_xor⟩⟩

/-! ### Arithmetic and shifts with a flag -/

/-- R100: an instruction that writes `b` and then the flag `c` answers a state in which V[x], unless it is VF, has what is known of
`b`, and VF is the flag. -/
theorem exec_withFlag {i : Instr} {s : State} {x : Reg} {b : Byte} {c : Bool} {Q : State → Prop} {n : Nat}
    (h : exec i s = .next (s.setWithFlag x b c)) (hb : ∀ t, t.reg x = b → Q t) (hc : (flagByte c).toNat = n) :
    ∃ t, exec i s = .next t ∧ OnlyRegs s t [x, VF] ∧ (x ≠ VF → Q t) ∧ (t.reg VF).toNat = n :=
  ⟨_, h, setReg_VF_onlyRegs .., fun hx => hb _ (by rw [State.setWithFlag_reg, if_neg hx, if_pos rfl]),
    by rw [State.setWithFlag_reg, if_pos rfl, hc]⟩

theorem flagByte_decide_toNat (p : Prop) [Decidable p] : (flagByte (decide p)).toNat = if p then 1 else 0 := by
  simp only [flagByte_toNat, decide_eq_true_eq]

theorem flagByte_toNat_eq_toNat (c : Bool) : (flagByte c).toNat = c.toNat := by
  cases c <;> rfl

theorem byte_sub_toNat (a b : Byte) : ((a - b).toNat : Int) = ((a.toNat : Int) - b.toNat) % 256 := by
  have := a.isLt
  have := b.isLt
  rw [BitVec.toNat_sub]
  omega

theorem flagByte_bit0_toNat (a : Byte) : (flagByte (bit0 a)).toNat = a.toNat % 2 := by
  rw [flagByte_toNat_eq_toNat, bit0, BitVec.getLsbD, Nat.toNat_testBit, Nat.pow_zero, Nat.div_one]

theorem flagByte_bit7_toNat (a : Byte) : (flagByte (bit7 a)).toNat = a.toNat / 128 := by
  have := a.isLt
  rw [flagByte_toNat_eq_toNat, bit7, BitVec.getLsbD, Nat.toNat_testBit]
  omega

/-- Settles O36: the sum of two bytes wraps, and the model's carry is the comparison with 255. -/
theorem addWritesSumThenCarry : Obligations.AddWritesSumThenCarry := by
  refine fun s x y => ⟨decode_encode (.addReg x y), exec_withFlag rfl (fun t ht => ?sum) (flagByte_decide_toNat _)⟩
  case sum => rw [ht, BitVec.toNat_add]

/-- Settles O37: the difference of two bytes wraps, and the model's flag is the comparison of minuend and subtrahend. -/
theorem subtractWritesDifferenceThenNoBorrow : Obligations.SubtractWritesDifferenceThenNoBorrow := by
  refine fun s x y => ⟨decode_encode (.subReg x y), decode_encode (.subn x y),
    exec_withFlag rfl (fun t ht => ?sub) (flagByte_decide_toNat _), exec_withFlag rfl (fun t ht => ?subn) (flagByte_decide_toNat _)⟩
  case sub => rw [ht, byte_sub_toNat]
  case subn => rw [ht, byte_sub_toNat]

/-- Settles O38: a shift by one halves or doubles a byte, and bits 0 and 7 are its remainder by 2 and its quotient by 128. -/
theorem shiftsMoveOneBitThenFlag : Obligations.ShiftsMoveOneBitThenFlag := by
  refine fun s x y => ⟨decode_encode (.shr x y), decode_encode (.shl x y),
    exec_withFlag rfl (fun t ht => ?half) (flagByte_bit0_toNat _), exec_withFlag rfl (fun t ht => ?double) (flagByte_bit7_toNat _)⟩
  case half => rw [ht, BitVec.toNat_ushiftRight, Nat.shiftRight_one]
  case double => rw [ht, BitVec.toNat_shiftLeft, Nat.shiftLeft_eq, Nat.pow_one]

/-! ### RND -/

/-- Settles O39: a `setReg` of the masked draw, then `takeDraw`, which no register sees. -/
theorem randomIsMaskedDraw : Obligations.RandomIsMaskedDraw := by
  intro s x nn
  have hdest : ((s.setReg x (Config.rand s.draws &&& nn)).takeDraw).reg x = Config.rand s.draws &&& nn := State.reg_setReg_self ..
  refine ⟨decode_encode (.rnd x nn), _, rfl, hdest, rfl, fun r hr => State.reg_setReg_ne s _ hr, fun _ => rfl, fun k hk => ?masked⟩
  case masked => rw [hdest, BitVec.getLsbD_and, hk, Bool.and_false]

end Sys2Proof.Machine
end

section
/-! PROOFS. The index register and the memory it addresses (42_index_memory.md). The accesses through I are each said by two lemmas,
inside memory and above it; what the next state holds is read off `setBytes`, `storeUpTo`, `loadUpTo` and `incIdx`. -/

namespace Sys2Proof.Machine

/-! ### I set by an instruction -/

theorem setIdx_onlyIdx (s : State) (w : Word) : OnlyIdx s (s.setIdx w) :=
  ⟨rfl, fun _ => rfl⟩

/-- R122: the address of the glyph that a register's low nibble names. -/
theorem toNat_glyphAddr_lowNibble (c : Config) (b : Byte) :
    (glyphAddr c (lowNibble b)).toNat = c.fontBase.val + 5 * (b.toNat % 16) := by
  rw [toNat_glyphAddr, lowNibble_val]

/-- Settles O40: each of the three is a `setIdx`; only the sum of Fx1E can wrap. -/
theorem indexRegisterIsSet : Obligations.IndexRegisterIsSet := by
  refine fun s x nnn => ⟨decode_encode (.ldI nnn), decode_encode (.addI x), decode_encode (.ldF x),
    ⟨_, rfl, toNat_addr16 nnn, setIdx_onlyIdx ..⟩, ⟨_, rfl, ?sum, setIdx_onlyIdx ..⟩,
    ⟨_, rfl, toNat_glyphAddr_lowNibble s.cfg (s.reg x), setIdx_onlyIdx ..⟩⟩
  case sum => rw [State.setIdx_idx, BitVec.toNat_add, toNat_byte16]

/-- Settles O47: the five bytes at I are among the 80 of the font, since the digit is at most 15. -/
theorem fontSpriteIsAtIndex : Obligations.FontSpriteIsAtIndex := by
  refine fun s x hfont => ⟨_, rfl, fun k hk => ?_⟩
  rw [State.setIdx_idx, State.setIdx_byteAt, toNat_glyphAddr_lowNibble, Nat.add_assoc]
  exact hfont _ (by omega)

/-! ### The decimal digits of Fx33 -/

theorem exec_ldB_inside {s : State} (x : Reg) (h : s.idx.toNat + 2 ≤ 4095) :
    exec (.ldB x) s = .next (s.setBytes (s.ea 0) (bcdDigits (s.reg x))) :=
  withRange_ok _ (.inr (by omega))

/-- R44: an Fx33 that reaches above 4095 writes nothing. -/
theorem exec_ldB_out {s : State} (x : Reg) (h : 4095 < s.idx.toNat + 2) :
    exec (.ldB x) s = .fault (.memoryFault (max s.idx.toNat 4096) s) :=
  withRange_out _ (by decide) (by omega)

/-- Settles O41, by whether the three bytes are inside memory. -/
theorem bcdStoresThreeDigits : Obligations.BcdStoresThreeDigits := by
  refine fun s x => ⟨decode_encode (.ldB x), fun h => ?_, exec_ldB_out x⟩
  have hbyte (k : Nat) (hk : k < 3) :
      (s.setBytes (s.ea 0) (bcdDigits (s.reg x))).byteAt (s.ea k) = (bcdDigits (s.reg x))[k] :=
    s.byteAt_setBytes_inside (s.ea 0) hk
  have hlt := (s.reg x).isLt
  refine ⟨_, exec_ldB_inside x h, State.setBytes_eq .., State.sameOutside_setBytes s (s.ea 0) (bcdDigits (s.reg x)),
    ?hundreds, ?tens, ?ones⟩
  case hundreds => rw [hbyte 0 (by decide)]; exact Nat.mod_eq_of_lt (by omega)
  case tens => rw [hbyte 1 (by decide)]; exact Nat.mod_eq_of_lt (by omega)
  case ones => rw [hbyte 2 (by decide)]; exact Nat.mod_eq_of_lt (by omega)

/-! ### I after Fx55 and Fx65 -/

/-- R124, R125: I moves past the last byte accessed, modulo 65536, under QUIRK_MEM_INC_I alone. -/
theorem State.toNat_incIdx_idx (s : State) (x : Reg) :
    (s.incIdx x).idx.toNat = if s.cfg.quirkMemIncI = true then (s.idx.toNat + x.val + 1) % 65536 else s.idx.toNat := by
  rw [State.incIdx_idx]
  split
  · rw [BitVec.toNat_add, BitVec.toNat_ofNat, Nat.add_mod_mod, Nat.add_assoc]
  · rfl

/-! ### Fx55 -/

theorem exec_storeRegs_inside {s : State} {x : Reg} (h : s.idx.toNat + x.val ≤ 4095) :
    exec (.storeRegs x) s = .next ((s.storeUpTo x).incIdx x) :=
  withRange_ok _ (.inr (by omega))

/-- R44: an Fx55 that reaches above 4095 writes nothing. -/
theorem exec_storeRegs_out {s : State} {x : Reg} (h : 4095 < s.idx.toNat + x.val) :
    exec (.storeRegs x) s = .fault (.memoryFault (max s.idx.toNat 4096) s) :=
  withRange_out _ (Nat.le_add_left ..) (by omega)

/-- R124: Fx55 writes the bytes of V0 to Vx and no other. -/
theorem State.sameOutside_storeUpTo_incIdx (s : State) (x : Reg) :
    SameOutside s ((s.storeUpTo x).incIdx x) (s.ea 0) (x.val + 1) :=
  fun a ha => by rw [State.incIdx_byteAt, State.storeUpTo_byteAt, dif_neg (by omega)]

/-- Settles O42, by whether the bytes are inside memory. -/
theorem storeRegistersFromV0 : Obligations.StoreRegistersFromV0 := by
  refine fun s x => ⟨decode_encode (.storeRegs x), fun h => ?_, exec_storeRegs_out⟩
  have hexec := exec_storeRegs_inside h
  have hframe := exec_frame hexec
  have hpc : ((s.storeUpTo x).incIdx x).pc = s.pc := by rw [hframe]
  refine ⟨_, hexec, ⟨hframe, s.sameOutside_storeUpTo_incIdx x⟩, fun r hr => storeRegs_byteAt_ea hexec hr, ?index, fun hin => ?fetched⟩
  case index => rw [State.toNat_incIdx_idx, State.storeUpTo_cfg, State.storeUpTo_idx]
  case fetched => rw [← hpc] at hin ⊢; exact fetch_inside hin

/-! ### Fx65 -/

theorem exec_loadRegs_inside {s : State} {x : Reg} (h : s.idx.toNat + x.val ≤ 4095) :
    exec (.loadRegs x) s = .next ((s.loadUpTo x).incIdx x) :=
  withRange_ok _ (.inr (by omega))

/-- R44: an Fx65 that reaches above 4095 loads nothing. -/
theorem exec_loadRegs_out {s : State} {x : Reg} (h : 4095 < s.idx.toNat + x.val) :
    exec (.loadRegs x) s = .fault (.memoryFault (max s.idx.toNat 4096) s) :=
  withRange_out _ (Nat.le_add_left ..) (by omega)

/-- R125: V0 to Vx after Fx65, whether or not I moves. -/
theorem State.loadUpTo_incIdx_reg (s : State) {x r : Reg} (hr : r.val ≤ x.val) :
    ((s.loadUpTo x).incIdx x).reg r = s.byteAt (s.ea r.val) := by
  rw [State.incIdx_reg, State.loadUpTo_reg, if_pos hr]

/-- Settles O43, by whether the bytes are inside memory; the registers above Vx are none that Fx65 writes. -/
theorem loadRegistersFromV0 : Obligations.LoadRegistersFromV0 := by
  refine fun s x => ⟨decode_encode (.loadRegs x), fun h => ?_, exec_loadRegs_out⟩
  have hexec := exec_loadRegs_inside h
  have hframe := exec_frame hexec
  refine ⟨_, hexec, hframe, fun a => ?memory, fun r hr => s.loadUpTo_incIdx_reg hr,
    fun r hr => exec_reg_of_not_writesReg hexec (Nat.not_le.2 hr), ?index⟩
  case memory => rw [hframe]; rfl
  case index => rw [State.toNat_incIdx_idx, State.loadUpTo_cfg, State.loadUpTo_idx]

/-- Settles O44: Fx65 passes the range check that Fx55 passed, and finds each register's byte where Fx55 put it. -/
theorem loadRestoresStoredRegisters : Obligations.LoadRestoresStoredRegisters := by
  intro s t x v' h
  obtain ⟨-, hrange⟩ := withRange_next h
  have hin : s.idx.toNat + x.val ≤ 4095 := by omega
  exact ⟨_, exec_loadRegs_inside hin, fun r hr => (State.loadUpTo_incIdx_reg _ hr).trans (storeRegs_byteAt_ea h hr)⟩

end Sys2Proof.Machine
end

section
/-! PROOFS. The display (43_display.md). What Dxyn does is said once for every next state it answers: the pixels under the sprite's
set bits, and the collision flag. Two draws at the same place cover the same pixels. No other instruction reads the display. -/

namespace Sys2Proof.Machine

/-! ### CLS -/

/-- Settles O48: CLS is a `setDisplay` of the display with every pixel unset. -/
theorem clearUnsetsEveryPixel : Obligations.ClearUnsetsEveryPixel :=
  ⟨decode_encode .cls, fun _ => ⟨_, rfl, Display.pixel_clear, rfl, fun _ => rfl⟩⟩

/-! ### DRW -/

theorem flagByte_eq_one_iff (c : Bool) : flagByte c = 0x01#8 ↔ c = true := by
  cases c <;> decide

/-- R132: the pixels that the rows drawn from the bytes at I toggle are those the sprite covers. -/
theorem hitRows_spriteBytes_iff (s : State) (x y : Reg) (n : Nibble) (py : Fin 32) (px : Fin 64) :
    HitRows ((s.reg x).toNat % 64) ((s.reg y).toNat % 32) 0 (s.spriteBytes n.toNat) py px ↔ s.spriteCovers x y n py px := by
  have hbyte (r : Nat) (hr : r < (s.spriteBytes n.toNat).length) : (s.spriteBytes n.toNat)[r] = s.byteAt (s.idx.toNat + r) := by
    simp [State.spriteBytes, State.ea]
  have hlen : (s.spriteBytes n.toNat).length = n.toNat := by simp [State.spriteBytes]
  constructor
  · rintro ⟨r, hr, rfl, c, hc, hbit, rfl⟩
    rw [hbyte] at hbit
    exact ⟨r, c, hlen ▸ hr, List.mem_range.1 hc, hbit, by simp [row], rfl⟩
  · rintro ⟨r, c, hr, hc, hbit, hy, hx⟩
    have hr' := hlen.symm ▸ hr
    refine ⟨r, hr', Fin.ext ?_, c, List.mem_range.2 hc, ?_, Fin.ext hx.symm⟩
    · simpa [row] using hy.symm
    · rwa [hbyte]

/-- A draw inside memory answers a next state. -/
theorem exec_drw_inside {s : State} {n : Nibble} (x y : Reg) (h : n.toNat = 0 ∨ s.idx.toNat + n.toNat ≤ 4096) :
    ∃ t, exec (.drw x y n) s = .next t :=
  ⟨_, withRange_ok _ h⟩

section
variable {s t : State} {x y : Reg} {n : Nibble} (h : exec (.drw x y n) s = .next t)
include h

/-- Everything a draw does to the display and to VF (R132). -/
theorem exec_drw_spec :
    (∀ py px, s.spriteCovers x y n py px → t.display.pixel py px = !s.display.pixel py px) ∧
      (∀ py px, ¬s.spriteCovers x y n py px → t.display.pixel py px = s.display.pixel py px) ∧
      ∃ c, t.reg VF = flagByte c ∧ (c = true ↔ ∃ py px, s.spriteCovers x y n py px ∧ s.display.pixel py px = true) := by
  obtain ⟨rfl, -⟩ := withRange_next h
  have hlen : (s.spriteBytes n.toNat).length ≤ 32 := by
    have := n.isLt
    simp only [State.spriteBytes, List.length_map, List.length_range]
    omega
  obtain ⟨htoggled, hkept, hcollided⟩ :=
    Canvas.drawRows_spec ((s.reg x).toNat % 64) ((s.reg y).toNat % 32) (s.spriteBytes n.toNat) 0 hlen ⟨s.display, false⟩
  simp only [hitRows_spriteBytes_iff, Bool.false_eq_true, false_or] at htoggled hkept hcollided
  exact ⟨htoggled, hkept, _, State.reg_setReg_self .., hcollided⟩

/-- After a draw the same pixels are covered: I and memory are as before, and so are V[x] and V[y] where neither is VF. -/
theorem spriteCovers_after_drw (hx : x ≠ VF) (hy : y ≠ VF) (py : Fin 32) (px : Fin 64) :
    t.spriteCovers x y n py px ↔ s.spriteCovers x y n py px := by
  have hbyte (a : Nat) : t.byteAt a = s.byteAt a := by rw [exec_frame h]; rfl
  have hidx : t.idx = s.idx := by rw [exec_frame h]
  simp only [State.spriteCovers, hbyte, hidx, exec_reg_of_not_writesReg h hx, exec_reg_of_not_writesReg h hy]

end

/-- Settles O49, by whether the sprite's bytes are inside memory. -/
theorem drawXorsAndReportsCollision : Obligations.DrawXorsAndReportsCollision := by
  refine fun s x y n => ⟨decode_encode (.drw x y n), fun hin => ?inside, fun ⟨hn, hout⟩ => withRange_out _ hn (by omega)⟩
  case inside =>
    obtain ⟨t, h⟩ := exec_drw_inside (s := s) (n := n) x y (by omega)
    obtain ⟨htoggled, hkept, c, hflag, hcollided⟩ := exec_drw_spec h
    have hframe := exec_frame h
    refine ⟨t, h, hframe, fun a => ?memory, fun r hr => exec_reg_of_not_writesReg h hr, htoggled, hkept,
      fun hc => ?set, fun hc => ?unset⟩
    case memory => rw [hframe]; rfl
    case set => rw [hflag, hcollided.2 hc]; rfl
    case unset => rw [hflag, eq_false_of_ne_true (mt hcollided.1 hc)]; rfl

/-- Settles O50: a covered pixel is toggled twice and any other one never; a pixel is set after the first draw and was not before
exactly when the sprite covers it and the second draw turns it off. -/
theorem drawTwiceRestores : Obligations.DrawTwiceRestores := by
  intro s t x y n hx hy h
  have hidx : t.idx = s.idx := by rw [exec_frame h]
  obtain ⟨u, hu⟩ := exec_drw_inside (s := t) x y (hidx ▸ (withRange_next h).2)
  obtain ⟨htoggled, hkept, -⟩ := exec_drw_spec h
  obtain ⟨htoggled', hkept', c, hflag, hcollided⟩ := exec_drw_spec hu
  simp only [spriteCovers_after_drw h hx hy] at htoggled' hkept' hcollided
  refine ⟨u, hu, Display.ext_pixel fun py px => ?restored, ?collision⟩
  case restored =>
    by_cases hcov : s.spriteCovers x y n py px
    · rw [htoggled' py px hcov, htoggled py px hcov, Bool.not_not]
    · rw [hkept' py px hcov, hkept py px hcov]
  case collision =>
    rw [hflag, flagByte_eq_one_iff, hcollided]
    refine exists_congr fun py => exists_congr fun px => and_congr_left fun hset => ?_
    by_cases hcov : s.spriteCovers x y n py px
    · rw [htoggled py px hcov, Bool.not_eq_true'] at hset
      exact iff_of_true hcov hset
    · rw [hkept py px hcov] at hset
      exact iff_of_false hcov (by rw [hset]; decide)

/-! ### No other instruction reads the display -/

section
variable (s : State) (d : Display)

theorem State.setLogic_setDisplay (x : Reg) (b : Byte) : (s.setDisplay d).setLogic x b = (s.setLogic x b).setDisplay d := by
  unfold State.setLogic
  rw [apply_ite (State.setDisplay · d)]
  rfl

theorem State.skipIf_setDisplay (c : Bool) : (s.setDisplay d).skipIf c = (s.skipIf c).setDisplay d := by
  unfold State.skipIf
  rw [apply_ite (State.setDisplay · d)]
  rfl

theorem State.incIdx_setDisplay (x : Reg) : (s.setDisplay d).incIdx x = (s.incIdx x).setDisplay d := by
  unfold State.incIdx
  rw [apply_ite (State.setDisplay · d)]
  rfl

theorem State.setBytes_setDisplay (a : Nat) (bs : List Byte) : (s.setDisplay d).setBytes a bs = (s.setBytes a bs).setDisplay d := by
  induction bs generalizing s a with
  | nil => rfl
  | cons b bs ih => exact ih (s.setByte a b) (a + 1)

theorem State.storeUpTo_setDisplay (x : Reg) : (s.setDisplay d).storeUpTo x = (s.storeUpTo x).setDisplay d :=
  State.setBytes_setDisplay ..

theorem State.loadUpTo_setDisplay (x : Reg) : (s.setDisplay d).loadUpTo x = (s.loadUpTo x).setDisplay d := by
  unfold State.loadUpTo
  exact List.foldl_hom (State.setDisplay · d) fun _ _ => rfl

end

/-- Run from `s` with any other display, an instruction other than CLS and Dxyn answers its next state with that display. -/
theorem exec_setDisplay {i : Instr} {s t : State} (h : exec i s = .next t) (d : Display) :
    exec i (s.setDisplay d) = .next (t.setDisplay d) ∨ i = .cls ∨ ∃ x y n, i = .drw x y n := by
  cases i
  case cls => exact .inr (.inl rfl)
  case drw x y n => exact .inr (.inr ⟨x, y, n, rfl⟩)
  all_goals left
  case call nnn =>
    obtain ⟨hsp, rfl⟩ := execCall_next.1 h
    exact execCall_next.2 ⟨hsp, rfl⟩
  case ret =>
    obtain ⟨h0, hslot, rfl⟩ := execRet_next.1 h
    exact execRet_next.2 ⟨h0, hslot, rfl⟩
  case ldVxK x =>
    obtain ⟨k, hk, rfl⟩ | ⟨hk, rfl⟩ := execLdVxK_next h
    · exact execLdVxK_some hk
    · exact execLdVxK_none hk
  case ldB x =>
    obtain ⟨rfl, hrange⟩ := withRange_next h
    rw [← State.setBytes_setDisplay]
    exact withRange_ok (s := s.setDisplay d) _ hrange
  case storeRegs x =>
    obtain ⟨rfl, hrange⟩ := withRange_next h
    rw [← State.incIdx_setDisplay, ← State.storeUpTo_setDisplay]
    exact withRange_ok (s := s.setDisplay d) _ hrange
  case loadRegs x =>
    obtain ⟨rfl, hrange⟩ := withRange_next h
    rw [← State.incIdx_setDisplay, ← State.loadUpTo_setDisplay]
    exact withRange_ok (s := s.setDisplay d) _ hrange
  all_goals obtain rfl := Host.Outcome.next.inj h
  case orReg | andReg | xorReg => exact congrArg _ (State.setLogic_setDisplay ..)
  case seImm | sneImm | seReg | sneReg | skp | sknp => exact congrArg _ (State.skipIf_setDisplay ..)
  all_goals rfl

/-- Settles O25: CLS writes the same display whatever it replaces; any other instruction leaves the display as it finds it. -/
theorem displayIsNotReadBack : Obligations.DisplayIsNotReadBack := by
  intro i s t d hdrw h
  obtain hd | rfl | ⟨x, y, n, rfl⟩ := exec_setDisplay h d
  · exact ⟨d, hd⟩
  · obtain rfl := Host.Outcome.next.inj h
    exact ⟨Display.clear, rfl⟩
  · exact absurd rfl (hdrw x y n)

end Sys2Proof.Machine
end

section
/-! PROOFS. Keypad and timers (44_keypad_timers.md). What Fx0A and the key wait do is said by the answer of `AnyPressed()`: the lowest
pressed key, or none. -/

namespace Sys2Proof.Machine

/-! ### The key wait -/

/-- R146: with a key pressed, the wait ends and `V[wait_x]` takes the key. -/
theorem keyWait_some {s : State} {k : Reg} (h : anyPressed s = some k) : keyWait s = (s.setReg s.waitX (keyByte k)).endWait := by
  rw [keyWait, h]

/-- R146: with no key pressed, the wait goes on. -/
theorem keyWait_none {s : State} (h : anyPressed s = none) : keyWait s = s := by
  rw [keyWait, h]

theorem State.reg_setReg_keyByte (s : State) (x k : Reg) : ((s.setReg x (keyByte k)).reg x).toNat = k.val := by
  rw [State.reg_setReg_self, keyByte_toNat]

/-- Settles O13, by the answer of `AnyPressed()`. -/
theorem keyWaitStep : Obligations.KeyWaitStep := by
  refine fun s hwait => ⟨fun hnone => ?none, fun k hk hlow => ?some⟩
  case none => rw [cycle_waiting hwait, keyWait_none (anyPressed_none.2 hnone)]
  case some =>
    rw [cycle_waiting hwait, keyWait_some (anyPressed_some.2 ⟨hk, hlow⟩)]
    exact ⟨_, rfl, rfl, State.reg_setReg_keyByte s s.waitX k, fun r hr => State.reg_setReg_ne s (keyByte k) hr, fun _ => rfl⟩

/-! ### The keypad instructions -/

/-- Settles O51: the model's tests are that the key of the low nibble is pressed, and its negation. -/
theorem keypadSkips : Obligations.KeypadSkips := by
  intro s x k hk
  have hkey : lowNibble (s.reg x) = k := Fin.ext ((lowNibble_val _).trans hk.symm)
  have hskp : exec (.skp x) s = .next (s.skipIf (s.pressed k)) := hkey ▸ rfl
  have hsknp : exec (.sknp x) s = .next (s.skipIf (!s.pressed k)) := hkey ▸ rfl
  refine ⟨decode_encode (.skp x), decode_encode (.sknp x), exec_skip hskp Iff.rfl, ?_⟩
  simpa only [ite_not] using exec_skip (p := ¬s.pressed k = true) hsknp (by simp)

/-- Settles O52, by the answer of `AnyPressed()`. -/
theorem keyLoadTakesLowestOrWaits : Obligations.KeyLoadTakesLowestOrWaits := by
  refine fun s x => ⟨decode_encode (.ldVxK x), fun k hk hlow => ?takes, fun hnone => ?waits⟩
  case takes =>
    exact ⟨_, execLdVxK_some (anyPressed_some.2 ⟨hk, hlow⟩), State.reg_setReg_keyByte s x k, setReg_onlyRegs ..⟩
  case waits => exact ⟨_, execLdVxK_none (anyPressed_none.2 hnone), rfl, fun _ => rfl⟩

/-! ### The timers -/

/-- R160, R163: a tick turns the tone off when ST is 1. -/
theorem soundActive_tick_of_st_one {s : State} (h : s.st = 0x01#8) : soundActive (tick s) = false := by
  rw [← Bool.not_eq_true, soundActive_iff, tick_st, toNat_tickTimer, h]
  decide

/-- Settles O53: Fx07 is a `setReg`, Fx15 a `setDt` and Fx18 a `setSt`, after which the tone is on exactly while ST is above 0. -/
theorem timerInstructions : Obligations.TimerInstructions :=
  fun s x => ⟨decode_encode (.ldVxDt x), decode_encode (.ldDtVx x), decode_encode (.ldStVx x),
    ⟨_, rfl, State.reg_setReg_self s x s.dt, setReg_onlyRegs ..⟩,
    ⟨_, rfl, rfl, fun _ => rfl⟩,
    ⟨_, rfl, rfl, fun _ => rfl, soundActive_iff (s.setSt (s.reg x)), soundActive_tick_of_st_one (s := s.setSt (s.reg x))⟩⟩

end Sys2Proof.Machine
end

section
/-! PROOFS. Exceptions and the host's side (60_exceptions.md): which fault a `Step()` answers and the state it leaves (R151 to R154),
the timer tick (R160), the keypad operations (R165, R166) and the pure reads (R163, R167). The faults of the instructions are said
once: an instruction faults exactly as `faultOf` lists. -/

namespace Sys2Proof.Machine

/-! ### The faults of an instruction -/

/-- R82: CALL faults exactly when 16 entries are live. -/
theorem execCall_fault {nnn : Addr12} {s : State} {f : Fault} :
    execCall nnn s = .fault f ↔ faultOf (.call nnn) s = some f := by
  simp only [execCall, faultOf]
  split
  next hfull => simp [raise]
  next hroom => split <;> exact ⟨nofun, nofun⟩

/-- R84: RET faults exactly when no entry is live. -/
theorem execRet_fault {s : State} {f : Fault} : execRet s = .fault f ↔ faultOf .ret s = some f := by
  simp only [execRet, faultOf]
  split
  next hempty => simp [raise]
  next hlive => split <;> exact ⟨nofun, nofun⟩

/-- R44: a ranged access faults exactly when its range leaves memory, however that condition `p` is written. -/
theorem withRange_eq_fault {n : Nat} {s ok : State} {f : Fault} {p : Prop} [Decidable p]
    (hp : p ↔ 1 ≤ n ∧ 4096 < s.idx.toNat + n) :
    withRange n s ok = .fault f ↔ (if p then some (.memoryFault (max s.idx.toNat 4096) s) else none) = some f := by
  obtain ⟨hin, hnext⟩ | ⟨hout, hfault⟩ := withRange_cases n s ok
  · rw [hnext, if_neg (mt hp.1 (by omega))]
    exact ⟨nofun, nofun⟩
  · rw [hfault, if_pos (hp.2 hout)]
    simp

/-- Fx0A answers a next state, with a key pressed or not (R145). -/
theorem execLdVxK_ne_fault {x : Reg} {s : State} {f : Fault} : execLdVxK x s ≠ .fault f := by
  cases hk : anyPressed s with
  | some k => rw [execLdVxK_some hk]; exact nofun
  | none => rw [execLdVxK_none hk]; exact nofun

/-- R151: the stack instructions and the ranged accesses fault as listed, and every other instruction answers a next state. -/
theorem exec_eq_fault {i : Instr} {s : State} {f : Fault} : exec i s = .fault f ↔ faultOf i s = some f := by
  cases i
  case call nnn => exact execCall_fault
  case ret => exact execRet_fault
  case drw x y n => exact withRange_eq_fault (by omega)
  case ldB x => exact withRange_eq_fault (by omega)
  case storeRegs x => exact withRange_eq_fault (by omega)
  case loadRegs x => exact withRange_eq_fault (by omega)
  case ldVxK x => exact ⟨fun h => absurd h execLdVxK_ne_fault, nofun⟩
  all_goals exact ⟨nofun, nofun⟩

/-! ### The faults of a step -/

/-- R64: a word that decodes to no instruction is reported whole, with PC past it. -/
theorem cycle_unknownOpcode {s : State} {w : Opcode} (h : s.fetches w) (hd : decode w = .error (.unknownOpcode w)) :
    cycle s = .fault (.unknownOpcode w s.advance) := by
  simp only [cycle, h.1, fetch_ok h, hd]
  rfl

/-- Settles O9: forwards by everything a step can do, backwards by the fetch, the decode and the instruction in that order. -/
theorem faultsOfAStep : Obligations.FaultsOfAStep := by
  refine fun s f => ⟨fun h => ?faults, ?only⟩
  case faults =>
    obtain ⟨-, hc⟩ | ⟨hwait, hpc, hc⟩ | ⟨w, hw, ⟨hd, hc⟩ | ⟨i, hd, hc⟩⟩ := cycle_cases s <;> rw [hc] at h
    · cases h
    · cases h; exact ⟨hwait, .inl ⟨hpc, rfl⟩⟩
    · cases h; exact ⟨hw.1, .inr ⟨w, hw, .inl ⟨hd, rfl⟩⟩⟩
    · exact ⟨hw.1, .inr ⟨w, hw, .inr ⟨i, hd, exec_eq_fault.1 h⟩⟩⟩
  case only =>
    rintro ⟨hwait, ⟨hpc, rfl⟩ | ⟨w, hw, ⟨hd, rfl⟩ | ⟨i, hd, hf⟩⟩⟩
    · exact cycle_fetch_out hwait hpc
    · exact cycle_unknownOpcode hw hd
    · rw [cycle_fetches hw hd]
      exact exec_eq_fault.2 hf

/-- R152: a step that faults past the fetch leaves PC 2 further and everything else as it was. -/
theorem precise_of_eq_advance {s t : State} (hpc : s.pc.toNat ≤ 4094) (h : t = s.advance) :
    t = { s with pc := s.pc + 2#16 } ∧ t.pc.toNat = s.pc.toNat + 2 :=
  h ▸ ⟨rfl, toNat_add2 hpc⟩

/-- Settles O10, by the faults of O9: the fetch's leaves the state it ran on, the others the advanced one. -/
theorem faultsArePrecise : Obligations.FaultsArePrecise := by
  intro s f h
  obtain ⟨-, ⟨hpc, rfl⟩ | ⟨w, ⟨-, hpc, -⟩, ⟨-, rfl⟩ | ⟨i, -, hf⟩⟩⟩ := (faultsOfAStep s f).1 h
  · exact .inl ⟨hpc, rfl, rfl, h⟩
  · exact .inr ⟨hpc, precise_of_eq_advance hpc rfl⟩
  · exact .inr ⟨hpc, precise_of_eq_advance hpc (exec_fault_after (exec_eq_fault.2 hf))⟩

/-! ### The fault policy -/

theorem deliver_fault_halt {f : Fault} (h : f.after.cfg.faultPolicy = .halt) : deliver (.fault f) = .fault f := by
  simp only [deliver, h]

theorem deliver_fault_skip {f : Fault} (h : f.after.cfg.faultPolicy = .skip) : deliver (.fault f) = .next f.after := by
  simp only [deliver, h]

/-- Settles O11: the policy of the state after a fault is that of the state before, since no step changes the parameters (R25). -/
theorem faultPolicyDecides : Obligations.FaultPolicyDecides := by
  have hcfg {s : State} {f : Fault} (h : cycle s = .fault f) : f.after.cfg = s.cfg :=
    (stepsLeaveKeypadAndParameters s f.after (.inr ⟨f, h, rfl⟩)).2
  refine fun s => ⟨fun f h hp => ?halt, fun f h hp => ?skip, fun t h => ?next⟩ <;> rw [step, h]
  case halt => exact deliver_fault_halt (hcfg h ▸ hp)
  case skip => exact deliver_fault_skip (hcfg h ▸ hp)
  case next => exact deliver_next t

/-! ### The timers -/

/-- R160: `k` ticks take `k` from each timer, floored at 0, and change nothing else. -/
theorem history_ticks (k : Nat) (s : State) :
    let t := history (List.replicate k .tick) s
    t.dt.toNat = s.dt.toNat - k ∧ t.st.toNat = s.st.toNat - k ∧ t = { s with dt := t.dt, st := t.st } ∧ SameMemory s t := by
  induction k generalizing s with
  | zero => exact ⟨rfl, rfl, rfl, fun _ => rfl⟩
  | succ k ih =>
    obtain ⟨hdt, hst, hframe, hmem⟩ := ih (tick s)
    rw [tick_dt, toNat_tickTimer, Nat.sub_sub, Nat.add_comm 1 k] at hdt
    rw [tick_st, toNat_tickTimer, Nat.sub_sub, Nat.add_comm 1 k] at hst
    exact ⟨hdt, hst, hframe, hmem⟩

/-- Settles O54: one tick by what it does to a timer, `k` ticks by induction. -/
theorem ticksCountDownToZero : Obligations.TicksCountDownToZero :=
  ⟨fun s => ⟨rfl, toNat_tickTimer s.dt, toNat_tickTimer s.st, rfl, fun _ => rfl⟩, history_ticks⟩

/-! ### The keypad -/

theorem setKey_inside (k : Reg) (b : Bool) (s : State) : setKey k.val b s = .next (s.setKeyFlag k b) :=
  dif_pos k.isLt

theorem setKey_outside {index : Nat} (h : 15 < index) (b : Bool) (s : State) :
    setKey index b s = .refused (.keyOutsideContract index) :=
  dif_neg (by omega)

/-- Settles O55: inside the contract `SetKey` is `setKeyFlag`, and `AnyPressed()` is the first key found pressed. -/
theorem keypadOperations : Obligations.KeypadOperations := by
  refine fun s b => ⟨fun k => ⟨s.setKeyFlag k b, setKey_inside k b s, ?written, fun j hj => ?others, rfl⟩,
    fun index h => setKey_outside h b s, anyPressed_none, fun k => anyPressed_some⟩
  case written => rw [State.pressed_setKeyFlag, if_pos rfl]
  case others => rw [State.pressed_setKeyFlag, if_neg hj]

/-! ### The pure reads -/

/-- Settles O58: both operations answer the state itself, and the tone is on exactly while ST is above 0. -/
theorem pureReads : Obligations.PureReads :=
  fun s => ⟨rfl, rfl, rfl, soundActive_iff s⟩

end Sys2Proof.Machine
end

section
/-! PROOFS. Reset and hazards (70_reset_and_hazards.md): every state with SP in its legal range has a next `Step()`, a self-jump is
stable under it (R183), and the first step with no program loaded faults (R182). -/

namespace Sys2Proof.Machine

/-! ### Refusals -/

/-- R82: CALL is refused only in a state that R17 calls unreachable. -/
theorem execCall_refused {nnn : Addr12} {s : State} {r : Refusal} (h : execCall nnn s = .refused r) : 16 < s.sp.toNat := by
  unfold execCall at h
  split at h
  next hfull => cases h
  next hnotFull =>
    split at h
    next hfree => cases h
    next hout => omega

/-- R84: RET is refused only in a state that R17 calls unreachable. -/
theorem execRet_refused {s : State} {r : Refusal} (h : execRet s = .refused r) : 16 < s.sp.toNat := by
  unfold execRet at h
  split at h
  next hempty => cases h
  next hlive =>
    split at h
    next hslot => cases h
    next hout => omega

/-- R44: a ranged access answers a next state or a fault. -/
theorem withRange_ne_refused {n : Nat} {s ok : State} {r : Refusal} : withRange n s ok ≠ .refused r := by
  obtain ⟨-, hnext⟩ | ⟨-, hfault⟩ := withRange_cases n s ok
  · rw [hnext]; exact nofun
  · rw [hfault]; exact nofun

/-- R145: Fx0A answers a next state, with a key pressed or not. -/
theorem execLdVxK_ne_refused {x : Reg} {s : State} {r : Refusal} : execLdVxK x s ≠ .refused r := by
  cases hk : anyPressed s with
  | some k => rw [execLdVxK_some hk]; exact nofun
  | none => rw [execLdVxK_none hk]; exact nofun

/-- R17: an instruction is refused only with SP above 16, since CALL and RET alone refuse. -/
theorem exec_refused {i : Instr} {s : State} {r : Refusal} (h : exec i s = .refused r) : 16 < s.sp.toNat := by
  cases i
  case call nnn => exact execCall_refused h
  case ret => exact execRet_refused h
  case drw | ldB | storeRegs | loadRegs => exact absurd h withRange_ne_refused
  case ldVxK x => exact absurd h execLdVxK_ne_refused
  all_goals cases h

/-- R17, R62: a `Step()` is refused only with SP above 16: the fetch leaves SP as it is, and no other case of the cycle refuses. -/
theorem cycle_refused {s : State} {r : Refusal} (h : cycle s = .refused r) : 16 < s.sp.toNat := by
  obtain ⟨-, hc⟩ | ⟨-, -, hc⟩ | ⟨w, -, ⟨-, hc⟩ | ⟨i, -, hc⟩⟩ := cycle_cases s <;> rw [hc] at h
  · cases h
  · cases h
  · cases h
  · exact State.advance_sp s ▸ exec_refused h

/-- R154: FAULT_POLICY turns no answer into a refusal. -/
theorem deliver_eq_refused {a : Result} {r : Refusal} (h : deliver a = .refused r) : a = .refused r := by
  cases a with
  | next t => cases h
  | fault f =>
    cases hp : f.after.cfg.faultPolicy with
    | halt => rw [deliver_fault_halt hp] at h; cases h
    | skip => rw [deliver_fault_skip hp] at h; cases h
  | refused q => exact h

/-- Settles O12: an instruction, and so a step under either policy, is refused only with SP above 16. -/
theorem nothingIsRefused : Obligations.NothingIsRefused := by
  intro s hsp r
  have hlegal : ¬ 16 < s.sp.toNat := Nat.not_lt.2 hsp
  exact ⟨fun h => hlegal (cycle_refused h), fun h => hlegal (cycle_refused (deliver_eq_refused h)),
    fun i h => hlegal (exec_refused h)⟩

/-! ### The end of a run -/

/-- Settles O14: the jump puts PC back where the fetch found it, and neither changes anything else. -/
theorem selfJumpIsStable : Obligations.SelfJumpIsStable := by
  rintro s ⟨nnn, htarget, hfetch⟩
  have hpc : addr16 nnn = s.pc := BitVec.eq_of_toNat_eq ((toNat_addr16 nnn).trans htarget)
  calc step s = deliver (exec (.jp nnn) s.advance) := congrArg deliver (cycle_fetches hfetch (decode_encode (.jp nnn)))
    _ = .next (s.advance.setPc (addr16 nnn)) := rfl
    _ = .next s := by rw [hpc]; rfl

/-! ### The first step -/

/-- R30: with no program loaded, the word at PROGRAM_ORIGIN is 0x0000. -/
theorem reset_fetches : State.reset.fetches 0x0000#16 := by decide

/-- Settles O59: 0x0000 is no instruction (R64), and under `halt`, R5's default, the fault ends the run. -/
theorem noProgramFaults : Obligations.NoProgramFaults := by
  have hcycle : cycle State.reset = .fault (.unknownOpcode 0x0000#16 State.reset.advance) :=
    cycle_unknownOpcode reset_fetches rfl
  exact (congrArg deliver hcycle).trans (deliver_fault_halt rfl)

end Sys2Proof.Machine
end
